-- ==== Sys2Proof/Word.lean ====
section
/-! DEFINITION. The plain word types of the part: bytes, card, device and source IDs, host tags. What the manual counts
(part time, CSNs, days, money) is a number, not a word
(DESIGN CHOICE, assumption 18). -/

namespace Sys2Proof

/-- One byte of a parcel. -/
abbrev Byte := BitVec 8

/-- A card ID, a 56-bit number; card ID 0 is not a valid card (00 section 4). -/
abbrev CardId := BitVec 56

/-- A fare device's ID (Table 3-1). -/
abbrev DeviceId := BitVec 24

/-- The source ID of a parcel header (Table 11-1). -/
abbrev SourceId := BitVec 24

/-- The clearing system's own value, returned in every case event (Table 1-1). -/
abbrev HostTag := BitVec 32

/-- A 16-bit parcel sequence, which wraps from 65,535 to 0 (R124, R184). -/
abbrev ParcelSeq := BitVec 16

/-- One of the 64 transport operators. -/
abbrev Operator := Fin 64

/-- One of the four pass slots of a card. -/
abbrev PassSlot := Fin 4

end Sys2Proof
end

