-- ==== Sys2Proof/Syntax.lean ====
section
/-! DEFINITION. The commands of the part: one constructor for each row of spec/opcode_table.json. The table gives its rows no
bits and no fields; a command carries what comes from outside the part (a port, a received frame) and nothing else.
The arguments of the clearing system's commands stand in the bytes of the control parcel under execution. -/

namespace Sys2Proof

/-- The two framed ports (00 section 1.1). -/
inductive Port where
  | device
  | clearing
deriving DecidableEq, Repr

/-- A frame as it is received: whether it passed its frame check (R30), and its payload, which opens with the 2-byte parcel
length (R187). The part reads neither its address nor its type fields. -/
structure RxFrame where
  checkOk : Bool
  payload : List Byte
deriving DecidableEq, Repr

/-- One constructor for each row of the table; the docstrings name the row and its rule. -/
inductive Instr where
  /-- HARD_RESET (R166): the RESET pin is asserted and released. -/
  | hardReset
  /-- INITIALIZATION_END (R166). -/
  | initializationEnd
  /-- LINK_DOWN (R30, R36): the link indication of a port falls. -/
  | linkDown (port : Port)
  /-- LINK_UP (R30, R36): the link indication of a port rises. -/
  | linkUp (port : Port)
  /-- DP_PARCEL_ARRIVAL (R30, R31): a frame is received at the Device Port. -/
  | dpParcelArrival (frame : RxFrame)
  /-- CP_PARCEL_ARRIVAL (R36, R162): a frame is received at the Clearing Port. -/
  | cpParcelArrival (frame : RxFrame)
  /-- INTAKE_TAKE_PARCEL (R34, R35, R37). -/
  | intakeTakeParcel
  /-- DISPOSITION_START_PARCEL (R41). -/
  | dispositionStartParcel
  /-- RECORD_DISPOSITION (R41). -/
  | recordDisposition
  /-- FORWARD_QUEUE_ENTRY (R52). -/
  | forwardQueueEntry
  /-- CP_OUTPUT_GRANT (R54). -/
  | cpOutputGrant
  /-- CP_SEND_COMPLETE (R54). -/
  | cpSendComplete
  /-- CONTROL_PARCEL_START (R163). -/
  | controlParcelStart
  /-- OPEN_CASE (R9 to R12). -/
  | openCase
  /-- CANCEL_CASE (R24). -/
  | cancelCase
  /-- RELEASE_CASE (R25). -/
  | releaseCase
  /-- FORCE_SETTLE (R15). -/
  | forceSettle
  /-- REISSUE (R20). -/
  | reissue
  /-- READ_CASE (R27). -/
  | readCase
  /-- READ_ARRIVALS (R74). -/
  | readArrivals
  /-- SEEK (R170). -/
  | seek
  /-- GET (R171). -/
  | get
  /-- PUT (R172). -/
  | put
  /-- PATCH_BEGIN (R173). -/
  | patchBegin
  /-- PATCH_END (R173). -/
  | patchEnd
  /-- SWITCH_POLICY (R147). -/
  | switchPolicy
  /-- INTERCEPT (R48). -/
  | intercept
  /-- SET_TIME (R156). -/
  | setTime
  /-- READ_STATUS (R174). -/
  | readStatus
  /-- SET_NOTICE_MASK (R183). -/
  | setNoticeMask
  /-- READ_LOG (R180). -/
  | readLog
  /-- CLEAR_LOG (R181). -/
  | clearLog
  /-- SOFT_RESET (R176). -/
  | softReset
  /-- PART_TIME_ADVANCE (R155). -/
  | partTimeAdvance
  /-- WINDOW_END_EXPIRY (R13). -/
  | windowEndExpiry
  /-- COLLECTION_DEADLINE_EXPIRY (R18). -/
  | collectionDeadlineExpiry
  /-- TAIL_END_EXPIRY (R23). -/
  | tailEndExpiry
  /-- SETTLE_OPERATION_START (R78). -/
  | settleOperationStart
  /-- SETTLEMENT_COMPLETION (R79). -/
  | settlementCompletion
  /-- ACTION_PARCEL_START (R124). -/
  | actionParcelStart
  /-- ACTION_PARCEL_SENT (R124). -/
  | actionParcelSent
  /-- NOTICE_BUILD (R184). -/
  | noticeBuild
  /-- UNKNOWN_COMMAND (R165). -/
  | unknownCommand
deriving DecidableEq, Repr

end Sys2Proof
end

