-- ==== Sys2Proof/Config.lean ====
section
/-! DEFINITION. The capacities and limits the manual fixes for this part, and the free values: what it leaves open.
A free value has no body, so that nothing can be proved of it. -/

namespace Sys2Proof.Config

/-- Records of the Case Table (R1). -/
def caseCount : Nat := 2048
/-- Parcels the DP receive buffer holds (R30). -/
def dpBufferParcels : Nat := 8
/-- Records the intake queue holds (R37). -/
def intakeRecords : Nat := 512
/-- Parcels the forward queue holds (R51). -/
def forwardParcels : Nat := 16
/-- Parcels the control queue holds (R162). -/
def controlParcels : Nat := 8
/-- Arrival slots of the pool (R57). -/
def poolSlots : Nat := 16384
/-- Arrivals of one case's list (R59). -/
def listArrivals : Nat := 32
/-- CSNs above the baseline CSN that the coverage set spans (R66). -/
def coverageSpan : Nat := 256
/-- Depth below which any entry but a RESTORE is admitted to the Action Queue (R120). -/
def actionEntries : Nat := 256
/-- Depth below which a RESTORE is admitted (R120). -/
def restoreDepth : Nat := 192
/-- Entries one action parcel carries at most (R124). -/
def actionParcelEntries : Nat := 16
/-- Events the case event queue holds (R182). -/
def eventQueue : Nat := 64
/-- Entries one notice parcel carries at most (R184). -/
def noticeEntries : Nat := 16
/-- Where the counters of R175 saturate. -/
def counterMax : Nat := 65535
/-- Where the pruned count saturates (R69). -/
def prunedMax : Nat := 255
/-- Where applied, unpaid and overpaid saturate (Table 1-1). -/
def totalMax : Int := 2000000
/-- The last restore generation of a case (R117). -/
def lastGeneration : Nat := 8191
/-- The highest part time (R154). -/
def maxTime : Nat := 4294967295
/-- The lowest value SET_TIME takes, 100 days (R156). -/
def minSetTime : Nat := 8640000
/-- How far past its arrival stamp a device time may lie before the record is UNTIMED (R38, R60). -/
def untimedSlack : Nat := 600
/-- The lowest balance a purse can hold (R39, R10, R15). -/
def minBalance : Int := -50000
/-- The highest balance a purse can hold (R39, R10, R15). -/
def maxBalance : Int := 1000000
/-- The largest amount of one record, either way (R39). -/
def maxAmount : Int := 1000000
/-- The highest baseline CSN (R10). -/
def maxBaselineCsn : Nat := 4294967039
/-- Most days a DURATION grant carries (R107). -/
def maxGrantDays : Nat := 366
/-- Bytes of the largest frame payload a port takes (R187). -/
def maxPayload : Nat := 9000
/-- Bytes of the smallest payload of an Ethernet frame (R187). -/
def minPayload : Nat := 46
/-- Seconds of an hour and of a day (00 section 4). -/
def hour : Nat := 3600
def day : Nat := 86400

/-- FREE VALUE (DESIGN CHOICE, assumption 10). The source ID that PARCEL_DROPPED reports for a dropped frame too short to hold a
parcel header: R31 reads it from the header as received and states nothing for a frame without one. -/
opaque headerlessSource : Nat → SourceId

/-- FREE VALUE (DESIGN CHOICE, assumption 10). The parcel sequence of the same report. -/
opaque headerlessSeq : Nat → ParcelSeq

/-- FREE VALUE (DESIGN CHOICE, assumption 11). How many zero bytes stand for an absent latch in a GET reply: R191 says that the bytes
of an absent optional field are 0 and gives row contents of three widths. It is bounded by the 1,024 bytes of a reply entry (R191),
of which length, code, status, presence and cursor take eight. -/
opaque absentLatchWidth : Fin 1017

/-- FREE VALUE (DESIGN CHOICE, assumption 12). The length of the arguments of a PUT that names CASE_DIRECTORY: Table 11-5 gives a
layout for a policy row and a block range row only. -/
opaque putDirectoryLength : Nat

end Sys2Proof.Config
end

