-- ==== Sys2Proof/Machine/State.lean ====
section
/-! DEFINITION. Every piece of state the manual gives the part, as plain data, and the state after reset. Names are the manual's;
each type's docstring cites the rule or table that gives it. -/

namespace Sys2Proof.Machine

/-! ### Parcels and records -/

/-- Why the machine stops with a fault. The manual describes no event that stops the part: its faults are exceptions in
the Exception Log, refusal statuses and counters, all of them effects on `State`. So there is no reason to stop. -/
inductive Fault : Type
deriving DecidableEq, Repr

/-- Why a command has no meaning. -/
inductive Refusal where
  /-- Raised by `exec` for a row whose meaning is not written; no arm raises it. Safe. -/
  | notModelled (mnemonic : String)
deriving DecidableEq, Repr

/-- Link state of a port (R30). -/
inductive LinkState where
  | down
  | up
deriving DecidableEq, Repr

/-- The five parcel kinds (Table 11-1). -/
inductive ParcelKind where
  | upload
  | action
  | control
  | reply
  | notice
deriving DecidableEq, Repr

/-- A parcel header after its checks: kind known and version 1 (R34, Table 11-1). -/
structure Header where
  kind : ParcelKind
  source : SourceId
  seq : ParcelSeq
  count : Byte
deriving DecidableEq, Repr

/-- The header checks of R34, in the order of its table. -/
inductive HeaderCheck where
  | length
  | kind
  | version
  | countRange
  | countAgreement
deriving DecidableEq, Repr

/-- The marks (section 2.3.1, Table 11-3). -/
inductive Mark where
  | clear
  | unchecked
  | malformed
  | rangeBlocked
  | oldBaseline
  | oldPre
  | oldPost
  | oldUntimed
  | oldUnattached
  | oldDuplicate
  | oldConflict
  | oldClosed
  | newCard
  | collection
  | staleCollection
  | foreignAction
deriving DecidableEq, Repr

/-- The five kinds of usage record (R39, Table 11-2). -/
inductive RecordKind where
  | purseUse
  | purseLoad
  | passUse
  | passSale
  | actionApplied
deriving DecidableEq, Repr

/-- The two classes of season ticket (Table 5-1). -/
inductive PassClass where
  | period
  | count
deriving DecidableEq, Repr

/-- The content of one pass slot (Table 5-1). -/
structure PassState where
  product : Nat
  cls : PassClass
  firstDay : Nat
  lastDay : Nat
  rides : Nat
deriving DecidableEq, Repr

/-- A pass-slot record of the baseline: it names its slot (01 section 1.5). -/
structure PassRecord where
  slot : PassSlot
  pass : PassState
deriving DecidableEq, Repr

/-- A ref: case number, instance, generation (R116). -/
structure Ref where
  caseNo : Nat
  inst : BitVec 8
  generation : Nat
deriving DecidableEq, Repr

/-- One record entry of the intake queue: the 48 bytes as received, the arrival stamp, the mark once written (R37, R38). -/
structure IntakeRecord where
  raw : List Byte
  stamp : Nat
  mark : Option Mark
deriving DecidableEq, Repr

/-- The condition of the head parcel of the intake queue (R33). -/
inductive ParcelCondition where
  | waiting
  | inDisposition
  | marked
deriving DecidableEq, Repr

/-- A parcel in the intake queue, with its header kept beside its records (R37). -/
structure IntakeParcel where
  header : Header
  records : List IntakeRecord
  condition : ParcelCondition
deriving DecidableEq, Repr

/-- A marked UPLOAD parcel in the forward queue: header as received, records with their marks written (R51). -/
structure ForwardParcel where
  header : Header
  records : List (List Byte)
deriving DecidableEq, Repr

/-- A CONTROL parcel in the control queue: its header and its command entries, each with its own length bytes (R162, R191). -/
structure ControlParcel where
  header : Header
  entries : List (List Byte)
deriving DecidableEq, Repr

/-! ### Policy and block ranges -/

/-- How purse gaps and missing rides are resolved (R86, R109). -/
inductive GapPolicy where
  | holder
  | operator
deriving DecidableEq, Repr

/-- An operator row (Table 7-1). -/
structure OperatorRow where
  valid : Bool
  fee : Nat
  purseMax : Nat
  gapPolicy : GapPolicy
  windowHours : Nat
  collectionDays : Nat
  tailDays : Nat
  dayOffset : Nat
  minCarryDays : Nat
  maxBackdateDays : Nat
  earlySettle : Bool
  rangeHeld : Bool
deriving DecidableEq, Repr

/-- A block range row (Table 7-3). -/
structure RangeRow where
  valid : Bool
  base : CardId
  mask : CardId
  operator : Operator
  reason : Byte
  rangeHeld : Bool
deriving DecidableEq, Repr

/-- The two banks (R141). -/
inductive Bank where
  | a
  | b
deriving DecidableEq, Repr

/-- The Policy Banks block (R141). -/
structure PolicyBanks where
  bankA : Vector OperatorRow 64
  bankB : Vector OperatorRow 64
  active : Bank
  switchPending : Bool
deriving DecidableEq, Repr

/-! ### The case record -/

/-- The eight case states (01 section 1.4). -/
inductive CaseState where
  | free
  | collecting
  | held
  | issued
  | lapsed
  | collected
  | closed
  | cancelled
deriving DecidableEq, Repr

/-- The class of an arrival (R60). -/
inductive ArrivalClass where
  | pre
  | post
  | untimed
deriving DecidableEq, Repr

/-- An arrival (Table 3-1). -/
structure Arrival where
  csn : Nat
  kind : RecordKind
  deviceTime : Nat
  stamp : Nat
  device : DeviceId
  operator : Operator
  amount : Int
  balanceAfter : Int
  slot : Option PassSlot
  passAfter : Option PassState
  ref : Option Ref
  cls : ArrivalClass
deriving DecidableEq, Repr

/-- The captured timing fields (Table 1-1, R12). -/
structure Timing where
  windowHours : Nat
  collectionDays : Nat
  tailDays : Nat
  dayOffset : Nat
  earlySettle : Bool
deriving DecidableEq, Repr

/-- The captured money fields (Table 1-1, R96). -/
structure MoneyTerms where
  fee : Nat
  purseMax : Nat
  gapPolicy : GapPolicy
  minCarryDays : Nat
deriving DecidableEq, Repr

/-- The case flags (Table 1-2). -/
structure CaseFlags where
  conflict : Bool
  mismatch : Bool
  lockBreach : Bool
  evidenceLost : Bool
  cardLocked : Bool
  clockDoubt : Bool
  forced : Bool
  clip : Bool
  daysClipped : Bool
  underApplied : Bool
  issueOwed : Bool
deriving DecidableEq, Repr

/-- The hold reasons (R5). -/
structure HoldReasons where
  conflict : Bool
  mismatch : Bool
  lockBreach : Bool
  evidenceLost : Bool
  noPolicy : Bool
  genExhausted : Bool
deriving DecidableEq, Repr

/-- The status of a result (Purse Settlement, R84, R94). -/
inductive ResultStatus where
  | confirmed
  | gapResolved
  | unconfirmed
  | forced
deriving DecidableEq, Repr

/-- A result: basis B, status, target T, shortfall S, excess X (R97). -/
structure Result where
  basis : Int
  status : ResultStatus
  target : Int
  shortfall : Int
  excess : Int
deriving DecidableEq, Repr

/-- The three forms of a grant with what each carries (R111); the form settles the class. -/
inductive GrantForm where
  | dated (firstDay lastDay : Nat)
  | duration (days : Nat)
  | rides (rides lastDay : Nat)
deriving DecidableEq, Repr

/-- A grant (R111). -/
structure Grant where
  slot : PassSlot
  product : Nat
  form : GrantForm
deriving DecidableEq, Repr

/-- The status of a pass slot's grant (Table 5-2). -/
inductive GrantStatus where
  | none
  | wanted
  | applied
  | refused
deriving DecidableEq, Repr

/-- One grant status for each slot 0..3 (R101). -/
structure SlotStatuses where
  s0 : GrantStatus
  s1 : GrantStatus
  s2 : GrantStatus
  s3 : GrantStatus
deriving DecidableEq, Repr

/-- The live RESTORE action of a case (Table 1-1). -/
structure Outstanding where
  generation : Nat
  credit : Int
  grants : List Grant
deriving DecidableEq, Repr

/-- The owed entries other than a RESTORE: the generations of the owed WITHDRAW entries, ascending, and the owed UNBLOCK
(R121). An owed RESTORE is the outstanding action with ISSUE_OWED set. -/
structure Owed where
  withdraws : List Nat
  unblock : Bool
deriving DecidableEq, Repr

/-- The three kinds of deadline (R8). -/
inductive DeadlineKind where
  | windowEnd
  | collection
  | tailEnd
deriving DecidableEq, Repr

/-- The one running deadline of a case (R8). -/
structure Deadline where
  kind : DeadlineKind
  due : Nat
deriving DecidableEq, Repr

/-- A case record (Table 1-1). Its case number is its index. -/
structure CaseRecord where
  inst : BitVec 8
  state : CaseState
  oldCard : CardId
  newCard : CardId
  operator : Operator
  hostTag : HostTag
  feeWaived : Bool
  blockInstant : Nat
  instantClamped : Bool
  baselineCsn : Nat
  baselineBalance : Int
  baselinePasses : List PassRecord
  timing : Option Timing
  money : Option MoneyTerms
  arrivals : List Arrival
  coverage : BitVec 256
  pruned : Nat
  changeCount : BitVec 16
  flags : CaseFlags
  lockCsn : Option Nat
  result : Option Result
  wanted : List Grant
  grantStatus : SlotStatuses
  applied : Int
  unpaid : Int
  overpaid : Int
  generation : Nat
  outstanding : Option Outstanding
  owed : Owed
  deadline : Option Deadline
  holdReasons : HoldReasons
deriving DecidableEq, Repr

/-- No flag set (R4). -/
def CaseFlags.none : CaseFlags :=
  ⟨false, false, false, false, false, false, false, false, false, false, false⟩

/-- No hold reason (R5). -/
def HoldReasons.none : HoldReasons := ⟨false, false, false, false, false, false⟩

/-- NONE for all four slots (R101). -/
def SlotStatuses.none : SlotStatuses := ⟨.none, .none, .none, .none⟩

/-- A record as hard reset leaves it, under an instance (Table 1-1, "After hard reset"). -/
def CaseRecord.freeWith (inst : BitVec 8) : CaseRecord where
  inst := inst
  state := .free
  oldCard := 0
  newCard := 0
  operator := 0
  hostTag := 0
  feeWaived := false
  blockInstant := 0
  instantClamped := false
  baselineCsn := 0
  baselineBalance := 0
  baselinePasses := []
  timing := Option.none
  money := Option.none
  arrivals := []
  coverage := 0
  pruned := 0
  changeCount := 0
  flags := CaseFlags.none
  lockCsn := Option.none
  result := Option.none
  wanted := []
  grantStatus := SlotStatuses.none
  applied := 0
  unpaid := 0
  overpaid := 0
  generation := 0
  outstanding := Option.none
  owed := ⟨[], false⟩
  deadline := Option.none
  holdReasons := HoldReasons.none

/-- The record every case number reads as after hard reset: FREE with instance 0 (R1). -/
def CaseRecord.reset : CaseRecord := CaseRecord.freeWith 0

/-- The role of a Card Index entry (R6). -/
inductive CardRole where
  | old
  | new
deriving DecidableEq, Repr

/-- A Card Index entry (R6). -/
structure IndexEntry where
  card : CardId
  caseNo : Nat
  role : CardRole
deriving DecidableEq, Repr

/-! ### Settlement -/

/-- The mode of a settle request; a FORCED one holds its basis and no-passes choice (R75, R76). -/
inductive SettleMode where
  | early
  | final
  | forced (basis : Int) (noPasses : Bool)
  | recompute
deriving DecidableEq, Repr

/-- A settle request (R75). -/
structure SettleRequest where
  caseNo : Nat
  mode : SettleMode
deriving DecidableEq, Repr

/-- What an operation reads from the case record at its start (R78). -/
structure Evidence where
  arrivals : List Arrival
  coverage : BitVec 256
  baselineCsn : Nat
  baselineBalance : Int
  baselinePasses : List PassRecord
  blockInstant : Nat
  feeWaived : Bool
  timing : Option Timing
  money : Option MoneyTerms
deriving DecidableEq, Repr

/-- The operation in flight (R75). -/
structure Operation where
  caseNo : Nat
  inst : BitVec 8
  mode : SettleMode
  changeCount : BitVec 16
  evidence : Evidence
  row : Option OperatorRow
deriving DecidableEq, Repr

/-- The Settlement Unit (R75). -/
structure SettlementUnit where
  fifo : List SettleRequest
  inFlight : Option Operation
deriving DecidableEq, Repr

/-! ### Actions -/

/-- An action entry by kind (Table 6-1). -/
inductive ActionEntry where
  | block (ref : Ref) (card : CardId) (operator : Operator) (instant : Nat)
  | unblock (ref : Ref) (card : CardId)
  | restore (ref : Ref) (card : CardId) (credit : Int) (grants : List Grant)
  | withdraw (ref : Ref) (card : CardId)
deriving DecidableEq, Repr

/-- The Action Queue, its taken entries (the oldest, in the parcel being sent) before its untaken ones, and the Emitter's
sequence (R119, R124). An action parcel is being sent exactly while there are taken entries. -/
structure ActionUnit where
  taken : List ActionEntry
  untaken : List ActionEntry
  seq : ParcelSeq
deriving DecidableEq, Repr

/-! ### Exceptions, events, notices -/

/-- The eight compared fields, in the order of the comparison (R62). -/
inductive ComparedField where
  | kind
  | deviceTime
  | device
  | amount
  | balanceAfter
  | slot
  | passAfter
  | ref
deriving DecidableEq, Repr

/-- The eleven exception kinds with the detail of each (Table 10-2). -/
inductive ExceptionDetail where
  | parcelMalformed (port : Port) (check : HeaderCheck)
  | recordsMalformed (source : SourceId) (seq : ParcelSeq) (count first : Nat)
  | wrongPort (port : Port) (kind : ParcelKind) (source : SourceId)
  | parcelDropped (source : SourceId) (seq : ParcelSeq)
  | controlDropped (source : SourceId) (seq : ParcelSeq)
  | recordConflict (csn : Nat) (field : ComparedField)
  | poolExhausted (csn : Nat) (cls : ArrivalClass)
  | strayEvidence (csn deviceTime : Nat)
  | foreignAction (ref : Ref)
  | staleCollection (generation : Nat) (counted : Int)
  | appliedMismatch (generation : Nat) (credit counted : Int) (mask : Option (BitVec 4))
deriving DecidableEq, Repr

/-- A valid exception record (Table 10-1); the constructor of its detail is its kind (DEDUCED, assumption 17). -/
structure LogRecord where
  caseNo : Option Nat
  card : Option CardId
  device : Option DeviceId
  time : Nat
  detail : ExceptionDetail
deriving DecidableEq, Repr

/-- The Exception Log (R178); an invalid record is an absent one. -/
structure ExceptionLog where
  records : Vector (Option LogRecord) 32
  writeIndex : Fin 32
  overflow : Bool
  lost : Nat
deriving DecidableEq, Repr

/-- The six case event kinds with the detail of each (R28, R97, R99, R192). -/
inductive EventDetail where
  | settled (status : ResultStatus) (target : Int)
  | held (reasons : HoldReasons)
  | adjusted (change : Int)
  | collected (applied : Int)
  | lapsed (generation : Nat)
  | closed (overpaid : Int)
deriving DecidableEq, Repr

/-- A case event (R182). -/
structure CaseEvent where
  caseNo : Nat
  inst : BitVec 8
  hostTag : HostTag
  time : Nat
  detail : EventDetail
deriving DecidableEq, Repr

/-- The log summary entry of a notice parcel (R184). -/
structure LogSummary where
  valid : Nat
  overflow : Bool
  first : Option (Fin 32)
deriving DecidableEq, Repr

/-- The case event queue and the Notice Unit (R182 to R184). The notice parcel held is its summary, if it carries one,
followed by the taken events. -/
structure NoticeUnit where
  taken : List CaseEvent
  untaken : List CaseEvent
  lost : Nat
  caseMasked : Bool
  logMasked : Bool
  casePending : Bool
  logPending : Bool
  parcel : Option (Option LogSummary)
  seq : ParcelSeq
deriving DecidableEq, Repr

/-! ### In-band control -/

/-- A table and row of the table window (R168). -/
inductive Cursor where
  | policyStandby (row : Fin 64)
  | policyActive (row : Fin 64)
  | blockRanges (row : Fin 32)
  | caseDirectory (row : Fin 2048)
deriving DecidableEq, Repr

/-- A CASE_DIRECTORY row (R168). -/
structure DirectoryRow where
  state : CaseState
  inst : BitVec 8
  oldCard : CardId
  newCard : CardId
  operator : Operator
  hostTag : HostTag
deriving DecidableEq, Repr

/-- The content of one row of a window table (R168). -/
inductive RowContent where
  | policy (row : OperatorRow)
  | range (row : RangeRow)
  | directory (row : DirectoryRow)
deriving DecidableEq, Repr

/-- What the read latch holds: a row's content and its origin (R171). -/
structure Latch where
  content : RowContent
  origin : Cursor
deriving DecidableEq, Repr

/-- The table window (R168). Patch mode is on exactly while there is a saved cursor (R173). -/
structure TableWindow where
  cursor : Cursor
  latch : Option Latch
  saved : Option Cursor
deriving DecidableEq, Repr

/-- The status codes, in the order of Table 9-2. -/
inductive Status where
  | ok
  | okClamped
  | busy
  | unknownCommand
  | badArgument
  | noSuchCase
  | wrongState
  | tableFull
  | cardInCase
  | sameCard
  | blockedTarget
  | noPolicy
  | clockUnset
  | readOnly
  | patchActive
  | notPatching
  | initializing
deriving DecidableEq, Repr

/-- Initialization state (R166). -/
inductive InitState where
  | initializing
  | ready
deriving DecidableEq, Repr

/-- Clock state (R154). -/
inductive ClockState where
  | unset
  | set
deriving DecidableEq, Repr

/-- The protection roles an arrival holds (R67, R74). -/
structure ArrivalRoles where
  anchor : Bool
  slots : List PassSlot
  p : Bool
deriving DecidableEq, Repr

/-- The items of a READ_STATUS reply (Table 9-3); the case counts are in the order of the case-state codes. -/
structure StatusReport where
  init : InitState
  clock : ClockState
  time : Nat
  requested : Bool
  effective : Bool
  active : Bank
  switchPending : Bool
  caseCounts : List Nat
  freeSlots : Nat
  actionDepth : Nat
  droppedParcels : Nat
  droppedControl : Nat
  lostRecords : Nat
  lostEvents : Nat
  logValid : Nat
  logOverflow : Bool
  caseMasked : Bool
  logMasked : Bool
  casePending : Bool
  logPending : Bool
  dpLink : LinkState
  cpLink : LinkState
deriving DecidableEq, Repr

/-- The result fields of a reply entry, by what the command's rule gives (R164). -/
inductive ReplyResult where
  /-- No result fields. -/
  | none
  /-- OPEN_CASE: case number and new instance (R12). -/
  | opened (caseNo : Nat) (inst : BitVec 8)
  /-- READ_CASE: the record without its arrivals, and their number (R27). -/
  | caseRecord (caseNo : Nat) (record : CaseRecord) (arrivals : Nat)
  /-- READ_ARRIVALS (R74). -/
  | arrivals (total : Nat) (changeCount : BitVec 16) (pruned start : Nat) (items : List (Arrival × ArrivalRoles))
  /-- SEEK, PUT, PATCH_BEGIN, PATCH_END: the cursor (R169, R173). -/
  | cursor (cursor : Cursor)
  /-- GET: the latch as it stood, and the cursor (R171). -/
  | latch (latch : Option Latch) (cursor : Cursor)
  /-- READ_STATUS (R174). -/
  | status (report : StatusReport)
  /-- READ_LOG: write index, overflow, valid records, lost counter, eight records with their indexes (R180). -/
  | log (writeIndex : Fin 32) (overflow : Bool) (valid lost : Nat) (records : List (Fin 32 × Option LogRecord))
deriving DecidableEq, Repr

/-- A reply entry: the command code as received, the status, the result fields (R164, R191). -/
structure ReplyEntry where
  code : Byte
  status : Status
  result : ReplyResult
deriving DecidableEq, Repr

/-- The two commands that hold the Control Unit after their execution (R163). -/
inductive HeldCommand where
  | intercept
  | switchPolicy
deriving DecidableEq, Repr

/-- What the Control Unit is doing (R163, R164). The parcel it works on is the head of the control queue; the next command
is the entry at the number of reply entries written. -/
inductive ControlPhase where
  /-- Holding no parcel and no reply. -/
  | idle
  /-- Executing the head parcel: the reply entries written so far, and the command that holds the unit, if any. -/
  | executing (replies : List ReplyEntry) (held : Option HeldCommand)
  /-- Holding the complete reply, offered to the CP output arbiter. -/
  | offering (replies : List ReplyEntry)
deriving DecidableEq, Repr

/-- The Control Unit (00 section 2.1, R162, R168). -/
structure ControlUnit where
  phase : ControlPhase
  window : TableWindow
  dropped : Nat
deriving DecidableEq, Repr

/-! ### The blocks and the part -/

/-- The three sources of the CP output (R54). -/
inductive CpSource where
  | reply
  | notice
  | forward
deriving DecidableEq, Repr

/-- The Device Port (R30, R31); a buffered parcel is its frame's payload as received. -/
structure DevicePort where
  link : LinkState
  buffer : List (List Byte)
  dropRun : Bool
  dropped : Nat
deriving DecidableEq, Repr

/-- The Clearing Port (R36, R54, R162): link state, control queue, and the source whose frame is being sent. -/
structure ClearingPort where
  link : LinkState
  queue : List ControlParcel
  sending : Option CpSource
deriving DecidableEq, Repr

/-- The Intake Unit (R37, R48). -/
structure IntakeUnit where
  queue : List IntakeParcel
  requested : Bool
  effective : Bool
deriving DecidableEq, Repr

/-- The Time Base (R154). The count within a second is left out (DESIGN CHOICE, assumption 5). -/
structure TimeBase where
  clock : ClockState
  now : Nat
deriving DecidableEq, Repr

/-- The part. `freeDraws` and `pending` are the model's own: the index of the next free value, and the commands waiting. -/
structure State where
  init : InitState
  dp : DevicePort
  cp : ClearingPort
  intake : IntakeUnit
  forward : List ForwardParcel
  index : List IndexEntry
  ranges : Vector RangeRow 32
  cases : List (Nat × CaseRecord)
  poolFree : Nat
  settle : SettlementUnit
  actions : ActionUnit
  policy : PolicyBanks
  time : TimeBase
  control : ControlUnit
  log : ExceptionLog
  notices : NoticeUnit
  freeDraws : Nat
  pending : List Instr
deriving DecidableEq, Repr

/-! ### Reset -/

/-- An operator row after hard reset (Table 7-1). -/
def OperatorRow.reset : OperatorRow where
  valid := false
  fee := 0
  purseMax := 50000
  gapPolicy := .holder
  windowHours := 72
  collectionDays := 30
  tailDays := 14
  dayOffset := 10800
  minCarryDays := 0
  maxBackdateDays := 14
  earlySettle := false
  rangeHeld := false

/-- A block range row after hard reset (Table 7-3). -/
def RangeRow.reset : RangeRow where
  valid := false
  base := 0
  mask := 0xFFFFFFFFFFFFFF
  operator := 0
  reason := 0
  rangeHeld := false

/-- The Policy Banks after hard reset (R141). -/
def PolicyBanks.reset : PolicyBanks where
  bankA := Vector.replicate 64 OperatorRow.reset
  bankB := Vector.replicate 64 OperatorRow.reset
  active := .a
  switchPending := false

/-- The window after hard reset and after SOFT_RESET (R168). -/
def TableWindow.reset : TableWindow where
  cursor := .policyStandby 0
  latch := Option.none
  saved := Option.none

/-- The Exception Log after hard reset and after SOFT_RESET (R178). -/
def ExceptionLog.reset : ExceptionLog where
  records := Vector.replicate 32 Option.none
  writeIndex := 0
  overflow := false
  lost := 0

/-- The case event queue and the Notice Unit after hard reset (R182, R183, R184, R185). -/
def NoticeUnit.reset : NoticeUnit where
  taken := []
  untaken := []
  lost := 0
  caseMasked := true
  logMasked := true
  casePending := false
  logPending := false
  parcel := Option.none
  seq := 0

/-- The machine right after reset: the RESET pin has been released and the initialization period begins (R166; the tables stand at
their hard-reset values already, DESIGN CHOICE, assumption 4). -/
def State.reset : State where
  init := .initializing
  dp := ⟨.down, [], false, 0⟩
  cp := ⟨.down, [], Option.none⟩
  intake := ⟨[], false, false⟩
  forward := []
  index := []
  ranges := Vector.replicate 32 RangeRow.reset
  cases := []
  poolFree := Config.poolSlots
  settle := ⟨[], Option.none⟩
  actions := ⟨[], [], 0⟩
  policy := PolicyBanks.reset
  time := ⟨.unset, 0⟩
  control := ⟨.idle, TableWindow.reset, 0⟩
  log := ExceptionLog.reset
  notices := NoticeUnit.reset
  freeDraws := 0
  pending := []

end Sys2Proof.Machine
end

