-- ==== Sys2Proof/Machine/Bytes.lean ====
section
/-! DEFINITION. Byte order and field widths of the formats chapter: most significant byte first, signed quantities two's
complement, bit 0 the least significant bit (11, opening; 00 section 4). -/

namespace Sys2Proof.Machine

/-- The unsigned number some bytes carry, most significant first. -/
def beNat (bs : List Byte) : Nat := bs.foldl (fun n b => n * 256 + b.toNat) 0

/-- An unsigned number in a field of so many bytes, most significant first. -/
def beBytes : Nat → Nat → List Byte
  | 0, _ => []
  | width + 1, n => BitVec.ofNat 8 (n / 256 ^ width) :: beBytes width n

/-- The bytes of a field: `width` bytes from byte `at'`. -/
def fieldBytes (bs : List Byte) (at' width : Nat) : List Byte := (bs.drop at').take width

/-- The unsigned number in a field. -/
def fieldNat (bs : List Byte) (at' width : Nat) : Nat := beNat (fieldBytes bs at' width)

/-- A 32-bit number as two's complement. -/
def signed32 (n : Nat) : Int := if n < 2147483648 then (n : Int) else (n : Int) - 4294967296

/-- The signed number in a 4-byte field. -/
def fieldInt (bs : List Byte) (at' : Nat) : Int := signed32 (fieldNat bs at' 4)

/-- A signed number in a 4-byte field. -/
def intBytes (i : Int) : List Byte := beBytes 4 (BitVec.ofInt 32 i).toNat

/-- A yes/no, set/clear, ON/OFF or masked field (Table 11-6). -/
def flagByte (b : Bool) : Byte := if b then 1 else 0

/-- A byte that is one when some value is present (R191). -/
def presence {α : Type} (o : Option α) : Byte := flagByte o.isSome

/-- Bytes padded with zero bytes up to a width. -/
def padTo (width : Nat) (bs : List Byte) : List Byte := bs ++ List.replicate (width - bs.length) 0

/-- Bit `n` of a byte. -/
def bitOf (b : Byte) (n : Nat) : Bool := b.getLsbD n

/-- A yes/no argument: neither 0 nor 1 fails the layout check (R165). -/
def yesNo? (n : Nat) : Option Bool :=
  if n = 0 then some false else if n = 1 then some true else none

end Sys2Proof.Machine
end

