-- ==== Sys2Proof/Machine/Formats.lean ====
section
/-! DEFINITION. Reading parcels, usage records and refs (11 sections 11.1 to 11.4; the header checks of R34; the record checks
of R39), and the codes of the enumerated fields (Tables 11-1 to 11-6). -/

namespace Sys2Proof.Machine

/-! ### Codes -/

/-- The parcel kind of header byte 0 (Table 11-1). -/
def parcelKind? (b : Byte) : Option ParcelKind :=
  match b.toNat with
  | 1 => some .upload
  | 2 => some .action
  | 3 => some .control
  | 4 => some .reply
  | 5 => some .notice
  | _ => none

/-- The code of a parcel kind (Table 11-1). -/
def ParcelKind.code : ParcelKind → Byte
  | .upload => 1
  | .action => 2
  | .control => 3
  | .reply => 4
  | .notice => 5

/-- The largest entry count of a kind (R34). -/
def ParcelKind.maxCount : ParcelKind → Nat
  | .upload => 32
  | .action => 16
  | .notice => 16
  | .control => 8
  | .reply => 8

/-- The mark values (Table 11-3). -/
def Mark.code : Mark → Byte
  | .clear => 1
  | .unchecked => 2
  | .malformed => 3
  | .rangeBlocked => 4
  | .oldBaseline => 5
  | .oldPre => 6
  | .oldPost => 7
  | .oldUntimed => 8
  | .oldUnattached => 9
  | .oldDuplicate => 10
  | .oldConflict => 11
  | .oldClosed => 12
  | .newCard => 13
  | .collection => 14
  | .staleCollection => 15
  | .foreignAction => 16

/-- The record kind of byte 7 (Table 11-2). -/
def recordKind? (b : Byte) : Option RecordKind :=
  match b.toNat with
  | 1 => some .purseUse
  | 2 => some .purseLoad
  | 3 => some .passUse
  | 4 => some .passSale
  | 5 => some .actionApplied
  | _ => none

/-- The code of a record kind (Table 11-2). -/
def RecordKind.code : RecordKind → Byte
  | .purseUse => 1
  | .purseLoad => 2
  | .passUse => 3
  | .passSale => 4
  | .actionApplied => 5

/-- The status codes, in the order of Table 9-2 (Table 11-6). -/
def Status.code : Status → Byte
  | .ok => 0
  | .okClamped => 1
  | .busy => 2
  | .unknownCommand => 3
  | .badArgument => 4
  | .noSuchCase => 5
  | .wrongState => 6
  | .tableFull => 7
  | .cardInCase => 8
  | .sameCard => 9
  | .blockedTarget => 10
  | .noPolicy => 11
  | .clockUnset => 12
  | .readOnly => 13
  | .patchActive => 14
  | .notPatching => 15
  | .initializing => 16

/-- The case-state codes (Table 11-6). -/
def CaseState.code : CaseState → Byte
  | .free => 0
  | .collecting => 1
  | .held => 2
  | .issued => 3
  | .lapsed => 4
  | .collected => 5
  | .closed => 6
  | .cancelled => 7

/-- Result status codes (Table 11-6). -/
def ResultStatus.code : ResultStatus → Byte
  | .confirmed => 1
  | .gapResolved => 2
  | .unconfirmed => 3
  | .forced => 4

/-- Grant status codes (Table 11-6). -/
def GrantStatus.code : GrantStatus → Byte
  | .none => 0
  | .wanted => 1
  | .applied => 2
  | .refused => 3

/-- Gap policy codes (Table 11-6). -/
def GapPolicy.code : GapPolicy → Byte
  | .holder => 0
  | .operator => 1

/-- Pass class codes (Table 11-6). -/
def PassClass.code : PassClass → Byte
  | .period => 0
  | .count => 1

/-- Arrival class codes (Table 11-6). -/
def ArrivalClass.code : ArrivalClass → Byte
  | .pre => 0
  | .post => 1
  | .untimed => 2

/-- Deadline kind codes (Table 11-6). -/
def DeadlineKind.code : DeadlineKind → Byte
  | .windowEnd => 0
  | .collection => 1
  | .tailEnd => 2

/-- Port codes (Table 11-6). -/
def portCode : Port → Byte
  | .device => 0
  | .clearing => 1

/-- Failing header check codes (Table 11-6). -/
def HeaderCheck.code : HeaderCheck → Byte
  | .length => 1
  | .kind => 2
  | .version => 3
  | .countRange => 4
  | .countAgreement => 5

/-- First differing field codes (Table 11-6). -/
def ComparedField.code : ComparedField → Byte
  | .kind => 1
  | .deviceTime => 2
  | .device => 3
  | .amount => 4
  | .balanceAfter => 5
  | .slot => 6
  | .passAfter => 7
  | .ref => 8

/-! ### Refs -/

/-- The value of a ref: case number × 2,097,152 + instance × 8,192 + generation (R116). -/
def Ref.value (r : Ref) : Nat := r.caseNo * 2097152 + r.inst.toNat * 8192 + r.generation

/-- A ref taken apart (R116). -/
def refOf (v : Nat) : Ref where
  caseNo := v / 2097152
  inst := BitVec.ofNat 8 (v / 8192)
  generation := v % 8192

/-- The block ref of a case: generation 0 (R72, R116). -/
def blockRef (caseNo : Nat) (inst : BitVec 8) : Ref := ⟨caseNo, inst, 0⟩

/-! ### Parcels -/

/-- A parcel as its header checks find it: the header, and its entries (UPLOAD records of 48 bytes, or the entries of
the other kinds with their length bytes, R188). -/
structure Parcel where
  header : Header
  entries : List (List Byte)
deriving DecidableEq, Repr

/-- UPLOAD records, 48 bytes each: none when the bytes are not exactly so many records (R188). -/
def splitRecords : Nat → List Byte → Option (List (List Byte))
  | 0, [] => some []
  | 0, _ :: _ => none
  | n + 1, bs =>
    if bs.length < 48 then none
    else (splitRecords n (bs.drop 48)).map (bs.take 48 :: ·)

/-- Entries of the other kinds, walked by their entry lengths; fails when a length is below 4 or the walk does not end
exactly at the end of the parcel (R188). -/
def walkEntries : Nat → List Byte → Option (List (List Byte))
  | 0, [] => some []
  | 0, _ :: _ => none
  | n + 1, bs =>
    let len := fieldNat bs 0 2
    if bs.length < 2 ∨ len < 4 ∨ bs.length < len then none
    else (walkEntries n (bs.drop len)).map (bs.take len :: ·)

/-- The parcel of a frame's payload, delimited by its parcel length (R187). -/
def parcelBytes (payload : List Byte) : List Byte := (payload.drop 2).take (fieldNat payload 0 2)

/-- The header checks of R34 on a frame's payload, in the order of its table: the first that fails, or the parcel. -/
def checkParcel (payload : List Byte) : Except HeaderCheck Parcel :=
  let len := fieldNat payload 0 2
  if payload.length < 10 ∨ len < 8 ∨ payload.length - 2 < len then .error .length
  else
    let bs := parcelBytes payload
    match parcelKind? (bs.getD 0 0) with
    | none => .error .kind
    | some kind =>
      if bs.getD 1 0 ≠ 1 then .error .version
      else
        let count := bs.getD 7 0
        if count.toNat = 0 ∨ kind.maxCount < count.toNat then .error .countRange
        else
          let header : Header :=
            ⟨kind, BitVec.ofNat 24 (fieldNat bs 2 3), BitVec.ofNat 16 (fieldNat bs 5 2), count⟩
          let body := bs.drop 8
          match (if kind = .upload then splitRecords count.toNat body else walkEntries count.toNat body) with
          | none => .error .countAgreement
          | some entries => .ok ⟨header, entries⟩

/-! ### Usage records -/

/-- A usage record as its 48 bytes read (Table 11-2); a field whose presence bit is clear is absent. -/
structure UsageRecord where
  card : CardId
  kind : Option RecordKind
  csn : Nat
  deviceTime : Nat
  device : DeviceId
  operator : Operator
  amount : Int
  balanceAfter : Int
  slotByte : Option Byte
  passAfter : Option PassState
  ref : Option Ref
  mask : Option (BitVec 4)
deriving DecidableEq, Repr

/-- The pass state in bytes 32 to 40 (Table 11-2). Bytes 39 and 40 are read for COUNT alone, and the rides of PERIOD are 0
(Table 5-1, R100; DEDUCED, assumption 31). -/
def passStateOf (raw : List Byte) : PassState where
  product := fieldNat raw 32 2
  cls := if bitOf (raw.getD 34 0) 0 then .count else .period
  firstDay := fieldNat raw 35 2
  lastDay := fieldNat raw 37 2
  rides := if bitOf (raw.getD 34 0) 0 then fieldNat raw 39 2 else 0

/-- The fields of a usage record (Table 11-2). -/
def usageRecord (raw : List Byte) : UsageRecord :=
  let present := raw.getD 19 0
  { card := BitVec.ofNat 56 (fieldNat raw 0 7)
    kind := recordKind? (raw.getD 7 0)
    csn := fieldNat raw 8 4
    deviceTime := fieldNat raw 12 4
    device := BitVec.ofNat 24 (fieldNat raw 16 3)
    operator := Fin.ofNat 64 (raw.getD 20 0).toNat
    amount := fieldInt raw 22
    balanceAfter := fieldInt raw 26
    slotByte := if bitOf present 0 then some (raw.getD 30 0) else none
    passAfter := if bitOf present 1 then some (passStateOf raw) else none
    ref := if bitOf present 2 then some (refOf (fieldNat raw 41 4)) else none
    mask := if bitOf present 3 then some ((raw.getD 31 0).setWidth 4) else none }

/-- The slot of a record, when present and 0..3. -/
def UsageRecord.slot (r : UsageRecord) : Option PassSlot :=
  match r.slotByte with
  | none => none
  | some b => if h : b.toNat < 4 then some ⟨b.toNat, h⟩ else none

/-- Whether a field required for the record's kind is absent (R39). -/
def UsageRecord.lacksField (r : UsageRecord) : Bool :=
  match r.kind with
  | some .passUse | some .passSale => r.slotByte.isNone || r.passAfter.isNone
  | some .actionApplied => r.ref.isNone || r.mask.isNone
  | _ => false

/-- Whether a record is MALFORMED (R39). -/
def UsageRecord.malformed (r : UsageRecord) : Bool :=
  r.kind.isNone
    || r.card == 0
    || decide (r.amount < -Config.maxAmount) || decide (Config.maxAmount < r.amount)
    || decide (r.balanceAfter < Config.minBalance) || decide (Config.maxBalance < r.balanceAfter)
    || (match r.slotByte with
        | some b => decide (3 < b.toNat)
        | none => false)
    || r.lacksField

/-- A record's bytes with its mark written into byte 21, and no other byte changed (R189). -/
def withMark (raw : List Byte) (m : Mark) : List Byte := raw.set 21 m.code

end Sys2Proof.Machine
end

