-- ==== Sys2Proof/Machine/Flags.lean ====
section
/-! DEFINITION. The case flags and hold reasons: the hold flags (R4), the reasons an entry to HELD records (R5), and the bits
they are reported in (Table 11-6). -/

namespace Sys2Proof.Machine

/-- Whether a hold flag is set: CONFLICT, MISMATCH, LOCK_BREACH or EVIDENCE_LOST (R4). -/
def CaseFlags.held (f : CaseFlags) : Bool := f.conflict || f.mismatch || f.lockBreach || f.evidenceLost

/-- The hold reasons of a FINAL settlement: every hold flag then set, with NO_POLICY for an invalid row (R5, R92). -/
def CaseFlags.reasons (f : CaseFlags) (noPolicy : Bool) : HoldReasons :=
  ⟨f.conflict, f.mismatch, f.lockBreach, f.evidenceLost, noPolicy, false⟩

/-- NO_POLICY alone (R5, R95). -/
def HoldReasons.noPolicyOnly : HoldReasons := ⟨false, false, false, false, true, false⟩

/-- GEN_EXHAUSTED alone (R5, R21). -/
def HoldReasons.exhausted : HoldReasons := ⟨false, false, false, false, false, true⟩

/-- The number whose bit `n` is the `n`-th of some bits. -/
def bitsNat : List Bool → Nat
  | [] => 0
  | b :: bs => (if b then 1 else 0) + 2 * bitsNat bs

/-- Bit n for the nth flag of Table 1-2, CONFLICT bit 0 to ISSUE_OWED bit 10 (Table 11-6). -/
def CaseFlags.bits (f : CaseFlags) : Nat :=
  bitsNat [f.conflict, f.mismatch, f.lockBreach, f.evidenceLost, f.cardLocked, f.clockDoubt, f.forced, f.clip,
    f.daysClipped, f.underApplied, f.issueOwed]

/-- Bits 0 to 3 the hold flags, bit 4 NO_POLICY, bit 5 GEN_EXHAUSTED (Table 11-6). -/
def HoldReasons.bits (h : HoldReasons) : Nat :=
  bitsNat [h.conflict, h.mismatch, h.lockBreach, h.evidenceLost, h.noPolicy, h.genExhausted]

end Sys2Proof.Machine
end

