-- ==== Sys2Proof/Machine/Ops.lean ====
section
/-! DEFINITION. The operations every meaning is written over: the Case Table and Card Index, policy rows, the Exception Log, the
case event queue, settle requests, admission to the Action Queue, deadlines, and the writing of reply entries. -/

namespace Sys2Proof.Machine

/-! ### Sparse tables in canonical form -/

/-- What a sparse table holds at a number; `d` where nothing is listed. -/
def tableGet {α : Type} (d : α) : List (Nat × α) → Nat → α
  | [], _ => d
  | e :: m, k => if e.1 = k then e.2 else tableGet d m k

/-- A table with nothing listed at a number. -/
def tableErase {α : Type} : List (Nat × α) → Nat → List (Nat × α)
  | [], _ => []
  | e :: m, k => if e.1 = k then m else e :: tableErase m k

/-- A table with a value listed at a number, in its place. -/
def tableInsert {α : Type} : List (Nat × α) → Nat → α → List (Nat × α)
  | [], k, v => [(k, v)]
  | e :: m, k, v =>
    if e.1 = k then (k, v) :: m
    else if k < e.1 then (k, v) :: e :: m
    else e :: tableInsert m k v

/-- A table with a value written: writing what an unlisted number reads as removes the entry. -/
def tableSet {α : Type} [DecidableEq α] (d : α) (m : List (Nat × α)) (k : Nat) (v : α) : List (Nat × α) :=
  if v = d then tableErase m k else tableInsert m k v

/-- The canonical form: numbers strictly rising, and no entry equal to what an unlisted number reads as. -/
abbrev tableWf {α : Type} (d : α) (m : List (Nat × α)) : Prop :=
  m.Pairwise (fun a b => a.1 < b.1) ∧ ∀ e ∈ m, e.2 ≠ d

/-! ### The Case Table -/

/-- The case record of a case number (R1). -/
def State.caseAt (s : State) (c : Nat) : CaseRecord := tableGet CaseRecord.reset s.cases c

/-- The part with a case record written. -/
def State.setCase (s : State) (c : Nat) (r : CaseRecord) : State :=
  { s with cases := tableSet CaseRecord.reset s.cases c r }

/-- The lowest case number from `c` on, of `n` of them, whose record is FREE. -/
def lowestFreeFrom (cases : List (Nat × CaseRecord)) : Nat → Nat → Option Nat
  | 0, _ => none
  | n + 1, c =>
    if (tableGet CaseRecord.reset cases c).state = .free then some c else lowestFreeFrom cases n (c + 1)

/-- The FREE record with the lowest case number (R1). -/
def State.lowestFree (s : State) : Option Nat := lowestFreeFrom s.cases Config.caseCount 0

/-- Whether a case is named by case number and instance (R2). -/
def State.named (s : State) (c : Nat) (inst : BitVec 8) : Bool :=
  decide (c < Config.caseCount) && decide ((s.caseAt c).state ≠ .free) && decide ((s.caseAt c).inst = inst)

/-! ### The Card Index -/

/-- The Card Index entry of a card, if the index holds one (R6). -/
def State.lookup (s : State) (card : CardId) : Option IndexEntry := s.index.find? (fun e => e.card == card)

/-- An index with an entry added, in card order. -/
def indexInsert : List IndexEntry → IndexEntry → List IndexEntry
  | [], e => [e]
  | x :: xs, e => if e.card.toNat < x.card.toNat then e :: x :: xs else x :: indexInsert xs e

/-- The part with both entries of a case added (R7). -/
def State.addCards (s : State) (c : Nat) (oldCard newCard : CardId) : State :=
  { s with index := indexInsert (indexInsert s.index ⟨oldCard, c, .old⟩) ⟨newCard, c, .new⟩ }

/-- The part with the entries of a case removed (R7). -/
def State.removeCards (s : State) (c : Nat) : State :=
  { s with index := s.index.filter (fun e => e.caseNo != c) }

/-! ### Policy and block ranges -/

/-- The active bank (R141). -/
def PolicyBanks.activeRows (p : PolicyBanks) : Vector OperatorRow 64 :=
  match p.active with
  | .a => p.bankA
  | .b => p.bankB

/-- The standby bank (R141). -/
def PolicyBanks.standbyRows (p : PolicyBanks) : Vector OperatorRow 64 :=
  match p.active with
  | .a => p.bankB
  | .b => p.bankA

/-- The operator's row in the active bank. -/
def State.activeRow (s : State) (op : Operator) : OperatorRow := s.policy.activeRows[op]

/-- The operator's row in the standby bank. -/
def State.standbyRow (s : State) (op : Operator) : OperatorRow := s.policy.standbyRows[op]

/-- The part with a row of the standby bank written (R143). -/
def State.setStandbyRow (s : State) (op : Operator) (row : OperatorRow) : State :=
  match s.policy.active with
  | .a => { s with policy := { s.policy with bankB := s.policy.bankB.set op row } }
  | .b => { s with policy := { s.policy with bankA := s.policy.bankA.set op row } }

/-- Whether a block range row matches a card: equal under the row's mask, the row valid (R45). -/
def RangeRow.matchesCard (r : RangeRow) (card : CardId) : Bool :=
  r.valid && (card &&& r.mask) == (r.base &&& r.mask)

/-- Whether any valid row of the Block Range Table matches a card (R45). -/
def State.rangeBlocked (s : State) (card : CardId) : Bool := s.ranges.toList.any (fun r => r.matchesCard card)

/-! ### Counters and free values -/

/-- A counter incremented, saturating at 65,535 (R175). -/
def bump (n : Nat) : Nat := if n < Config.counterMax then n + 1 else n

/-! ### The Exception Log -/

/-- Whether no record is valid (R178). -/
def ExceptionLog.isEmpty (l : ExceptionLog) : Bool := l.records.toList.all Option.isNone

/-- The number of valid records (R178). -/
def ExceptionLog.validCount (l : ExceptionLog) : Nat := (l.records.toList.filter Option.isSome).length

/-- The log after an exception: written at the write index, or lost with overflow set (R179). -/
def ExceptionLog.write (l : ExceptionLog) (r : LogRecord) : ExceptionLog :=
  if l.overflow then { l with lost := bump l.lost }
  else
    match l.records[l.writeIndex] with
    | none => { l with records := l.records.set l.writeIndex (some r), writeIndex := l.writeIndex + 1 }
    | some _ => { l with overflow := true, lost := bump l.lost }

/-- Whether an exception makes the LOG condition arise: the log passes from empty to holding a valid record, or overflow
passes from clear to set (R183). -/
def ExceptionLog.arises (before after : ExceptionLog) : Bool :=
  (before.isEmpty && !after.isEmpty) || (!before.overflow && after.overflow)

/-- Log an exception record (R179), raising the LOG condition where it arises (R183). -/
def State.logRecord (s : State) (r : LogRecord) : State :=
  let after := s.log.write r
  { s with
    log := after
    notices := { s.notices with logPending := s.notices.logPending || s.log.arises after } }

/-- Log an exception at the present part time (R160), with the optional fields it carries (Table 10-2). -/
def State.logException (s : State) (caseNo : Option Nat) (card : Option CardId) (device : Option DeviceId)
    (detail : ExceptionDetail) : State :=
  s.logRecord ⟨caseNo, card, device, s.time.now, detail⟩

/-- The first valid index found from the write index upward, counting from 31 round to 0 (R180, R184). -/
def ExceptionLog.firstValidFrom (l : ExceptionLog) : Nat → Fin 32 → Option (Fin 32)
  | 0, _ => none
  | n + 1, i => if l.records[i].isSome then some i else l.firstValidFrom n (i + 1)

/-- The first valid index, or none when the log is empty (R184). -/
def ExceptionLog.firstValid (l : ExceptionLog) : Option (Fin 32) := l.firstValidFrom 32 l.writeIndex

/-! ### The case event queue -/

/-- The CASE pending flag as the queue gives it: set while it holds an untaken event (R183). -/
def NoticeUnit.refreshPending (n : NoticeUnit) : NoticeUnit := { n with casePending := !n.untaken.isEmpty }

/-- The unit after an event is raised: it joins the queue, or is dropped and counted when the queue holds 64 (R182). Either way
CASE pending is derived anew from the queue (R183, DESIGN CHOICE, assumption 9). -/
def NoticeUnit.raise (n : NoticeUnit) (e : CaseEvent) : NoticeUnit :=
  (if n.taken.length + n.untaken.length < Config.eventQueue then { n with untaken := n.untaken ++ [e] }
  else { n with lost := bump n.lost }).refreshPending

/-- Raise a case event of a case at the present part time (R28, R160, R182). -/
def State.raiseEvent (s : State) (c : Nat) (detail : EventDetail) : State :=
  let r := s.caseAt c
  { s with notices := s.notices.raise ⟨c, r.inst, r.hostTag, s.time.now, detail⟩ }

/-! ### The settle request FIFO -/

/-- Whether a mode applies to a case (R76, Table 4-1). -/
def SettleMode.applies (m : SettleMode) (r : CaseRecord) : Bool :=
  match m with
  | .early | .final => decide (r.state = .collecting)
  | .forced _ _ => decide (r.state = .collecting) || decide (r.state = .held)
  | .recompute =>
    (decide (r.state = .issued) || decide (r.state = .lapsed) || decide (r.state = .collected)) && !r.flags.forced

/-- Whether a new request replaces the waiting one it meets; `requeued` marks a request placed again under R79 (R77). -/
def replacesWaiting (r : CaseRecord) (waiting new : SettleMode) (requeued : Bool) : Bool :=
  !waiting.applies r
    || (match new, waiting with
        | .final, .early => true
        | .final, .recompute => true
        | .forced _ _, .forced _ _ => !requeued
        | .forced _ _, _ => true
        | _, _ => false)

/-- Place a settle request: it joins the tail, or meets the case's waiting request (R77). -/
def State.placeRequest (s : State) (req : SettleRequest) (requeued : Bool) : State :=
  match s.settle.fifo.find? (fun w => w.caseNo == req.caseNo) with
  | none => { s with settle := { s.settle with fifo := s.settle.fifo ++ [req] } }
  | some w =>
    if replacesWaiting (s.caseAt req.caseNo) w.mode req.mode requeued then
      { s with settle := { s.settle with fifo := s.settle.fifo.map (fun x => if x.caseNo = req.caseNo then req else x) } }
    else s

/-- Remove the waiting request of a case (R24, R25). -/
def State.dropRequest (s : State) (c : Nat) : State :=
  { s with settle := { s.settle with fifo := s.settle.fifo.filter (fun w => w.caseNo != c) } }

/-! ### Deadlines -/

/-- A deadline value: the exact sum, held at the highest part time (R159). -/
def deadlineAt (kind : DeadlineKind) (value : Nat) : Deadline := ⟨kind, min value Config.maxTime⟩

/-- A case record whose collection deadline starts at a part time, unless one is running (R17). -/
def CaseRecord.startCollection (r : CaseRecord) (now : Nat) : CaseRecord :=
  match r.deadline with
  | some ⟨.collection, _⟩ => r
  | _ =>
    { r with
      deadline := some (deadlineAt .collection (now + ((r.timing.map Timing.collectionDays).getD 0) * Config.day)) }

/-- Whether a record's running deadline has been reached (R8, R159). -/
def CaseRecord.isDue (r : CaseRecord) (now : Nat) : Bool :=
  match r.deadline with
  | some d => decide (d.due ≤ now)
  | none => false

/-- The next expiry: that of the lowest-numbered case whose deadline part time has reached (R8; DEDUCED, assumptions 6
and 27). -/
def State.nextDue (s : State) : Option (Nat × CaseRecord) :=
  s.cases.find? (fun e => e.2.isDue s.time.now)

/-- The next expiry's case, when its deadline is of a kind. -/
def State.dueOf (s : State) (kind : DeadlineKind) : Option (Nat × CaseRecord) :=
  match s.nextDue with
  | some (c, r) => if r.deadline.map Deadline.kind = some kind then some (c, r) else none
  | none => none

/-! ### Admission to the Action Queue -/

/-- The depth of the Action Queue counts taken and untaken entries (R119). -/
def ActionUnit.depth (a : ActionUnit) : Nat := a.taken.length + a.untaken.length

/-- An entry joins the tail. -/
def State.enqueue (s : State) (e : ActionEntry) : State :=
  { s with actions := { s.actions with untaken := s.actions.untaken ++ [e] } }

/-- Whether the queue admits a RESTORE (R120). -/
def State.admitsRestore (s : State) : Bool := decide (s.actions.depth < Config.restoreDepth)

/-- Whether the queue admits any other entry (R120). -/
def State.admitsOther (s : State) : Bool := decide (s.actions.depth < Config.actionEntries)

/-! ### Reply entries -/

/-- The head parcel of the control queue: the one under execution, or the next (R162). -/
def State.headParcel (s : State) : Option ControlParcel := s.cp.queue.head?

/-- The command entry the Control Unit executes next, when no command holds it (R163). -/
def State.nextEntry (s : State) : Option (List Byte) :=
  match s.control.phase, s.headParcel with
  | .executing replies none, some p => p.entries[replies.length]?
  | _, _ => none

/-- The phase after a reply entry is written: when it was the last command's, the reply parcel is complete and is
offered to the CP output arbiter (R163). -/
def phaseAfter (entries : Nat) (replies : List ReplyEntry) : ControlPhase :=
  if replies.length < entries then .executing replies none else .offering replies

/-- The part after the Control Unit writes a reply entry (R163). -/
def State.writeReply (s : State) (e : ReplyEntry) : State :=
  match s.control.phase with
  | .executing replies _ =>
    { s with
      control := { s.control with
        phase := phaseAfter ((s.headParcel.map (fun p => p.entries.length)).getD 0) (replies ++ [e]) } }
  | _ => s

/-- What executing a command ends in: its reply entry's status and result fields, or the command holds the Control Unit
until its completion (R163). -/
inductive Response where
  | reply (status : Status) (result : ReplyResult)
  | hold (command : HeldCommand)
deriving DecidableEq, Repr

/-- The part after a command has executed: its reply entry is written, or the command holds the unit (R163). -/
def State.finish (s : State) (code : Byte) : Response → State
  | .reply status result => s.writeReply ⟨code, status, result⟩
  | .hold command =>
    match s.control.phase with
    | .executing replies _ => { s with control := { s.control with phase := .executing replies (some command) } }
    | _ => s

/-- The command code of the command that holds the unit (R191). -/
def HeldCommand.code : HeldCommand → Byte
  | .switchPolicy => 13
  | .intercept => 14

/-- The completion of a command that holds the Control Unit: its reply entry, with status OK, is written (R48, R147). -/
def State.completeHeld (s : State) (command : HeldCommand) : State :=
  match s.control.phase with
  | .executing _ (some h) => if h = command then s.writeReply ⟨command.code, .ok, .none⟩ else s
  | _ => s

end Sys2Proof.Machine
end

