-- ==== Sys2Proof/Machine/Operands.lean ====
section
/-! DEFINITION. The arguments of every command: how they stand in the bytes of a command entry (R191, Table 11-5), and the
layout check of R165 step 3. A reader answers none where the layout check fails (BAD_ARGUMENT). -/

namespace Sys2Proof.Machine

/-- The command code of an entry (R191). -/
def entryCode (entry : List Byte) : Byte := entry.getD 2 0

/-- The argument bytes of an entry: what follows length, code and the zero byte (R191). -/
def entryArgs (entry : List Byte) : List Byte := entry.drop 4

/-- A command whose entry carries no argument. -/
def readNone (args : List Byte) : Option Unit := if args.length = 0 then some () else none

/-- A case named by case number and instance (R2). -/
structure CaseName where
  caseNo : Nat
  inst : BitVec 8
deriving DecidableEq, Repr

/-- The case name at the head of some arguments. -/
def caseNameOf (args : List Byte) : CaseName := ⟨fieldNat args 0 2, args.getD 2 0⟩

/-- CANCEL_CASE, RELEASE_CASE, REISSUE, READ_CASE. -/
def readCaseName (args : List Byte) : Option CaseName :=
  if args.length = 3 then some (caseNameOf args) else none

/-- The arguments of FORCE_SETTLE (R15). -/
structure ForceArgs where
  name : CaseName
  basis : Int
  noPasses : Bool
deriving DecidableEq, Repr

def readForceSettle (args : List Byte) : Option ForceArgs :=
  if args.length = 8 then
    (yesNo? (args.getD 7 0).toNat).map (fun b => ⟨caseNameOf args, fieldInt args 3, b⟩)
  else none

/-- The arguments of READ_ARRIVALS (R74); a start position above 31 is judged by its own rule. -/
structure ArrivalsArgs where
  name : CaseName
  start : Nat
deriving DecidableEq, Repr

def readArrivalsArgs (args : List Byte) : Option ArrivalsArgs :=
  if args.length = 4 then some ⟨caseNameOf args, (args.getD 3 0).toNat⟩ else none

/-- The arguments of OPEN_CASE (01 section 1.5). -/
structure OpenArgs where
  oldCard : CardId
  newCard : CardId
  operator : Operator
  hostTag : HostTag
  feeWaived : Bool
  reportTime : Nat
  baselineCsn : Nat
  baselineBalance : Int
  passes : List PassRecord
deriving DecidableEq, Repr

/-- One pass record of 10 bytes; its slot must be 0..3 and its class 0 or 1 (R165). -/
def readPassRecord (bs : List Byte) : Option PassRecord :=
  let slot := (bs.getD 0 0).toNat
  let cls := (bs.getD 3 0).toNat
  if h : slot < 4 then
    (yesNo? cls).map (fun isCount =>
      ⟨⟨slot, h⟩, ⟨fieldNat bs 1 2, if isCount then .count else .period, fieldNat bs 4 2, fieldNat bs 6 2,
        fieldNat bs 8 2⟩⟩)
  else none

/-- So many pass records in turn. -/
def readPassRecords : Nat → List Byte → Option (List PassRecord)
  | 0, _ => some []
  | n + 1, bs =>
    match readPassRecord (bs.take 10), readPassRecords n (bs.drop 10) with
    | some p, some ps => some (p :: ps)
    | _, _ => none

/-- OPEN_CASE: 33 + 10 × pass count bytes; operator 0..63, fee waived 0 or 1 (R165, R191). -/
def readOpenCase (args : List Byte) : Option OpenArgs :=
  let op := (args.getD 14 0).toNat
  let passCount := (args.getD 32 0).toNat
  if args.length = 33 + 10 * passCount then
    if h : op < 64 then
      match yesNo? (args.getD 19 0).toNat, readPassRecords passCount (args.drop 33) with
      | some waived, some passes =>
        some
          { oldCard := BitVec.ofNat 56 (fieldNat args 0 7)
            newCard := BitVec.ofNat 56 (fieldNat args 7 7)
            operator := ⟨op, h⟩
            hostTag := BitVec.ofNat 32 (fieldNat args 15 4)
            feeWaived := waived
            reportTime := fieldNat args 20 4
            baselineCsn := fieldNat args 24 4
            baselineBalance := fieldInt args 28
            passes := passes }
      | _, _ => none
    else none
  else none

/-- The cursor of a table code and a row, when the row lies within the table (R168, Table 11-6). -/
def cursorOf (table row : Nat) : Option Cursor :=
  match table with
  | 0 => if h : row < 64 then some (.policyStandby ⟨row, h⟩) else none
  | 1 => if h : row < 64 then some (.policyActive ⟨row, h⟩) else none
  | 2 => if h : row < 32 then some (.blockRanges ⟨row, h⟩) else none
  | 3 => if h : row < 2048 then some (.caseDirectory ⟨row, h⟩) else none
  | _ => none

/-- SEEK: a table of the four and a row within it (R165, R170). -/
def readSeek (args : List Byte) : Option Cursor :=
  if args.length = 3 then cursorOf (args.getD 0 0).toNat (fieldNat args 1 2) else none

/-- The values of an operator row in a PUT, each in its byte width, not yet judged (R143, R191). -/
structure PolicyValues where
  valid : Nat
  fee : Nat
  purseMax : Int
  gapPolicy : Nat
  windowHours : Nat
  collectionDays : Nat
  tailDays : Nat
  dayOffset : Nat
  minCarryDays : Nat
  maxBackdateDays : Nat
  earlySettle : Nat
deriving DecidableEq, Repr

/-- The values of a block range row in a PUT (R151, R191). -/
structure RangeValues where
  valid : Nat
  base : CardId
  mask : CardId
  operator : Nat
  reason : Byte
deriving DecidableEq, Repr

/-- The table a PUT names, with the values it carries. -/
inductive PutArgs where
  | policyStandby (v : PolicyValues)
  | policyActive (v : PolicyValues)
  | blockRanges (v : RangeValues)
  | caseDirectory
deriving DecidableEq, Repr

/-- The 19 bytes of a policy row (R191). -/
def policyValuesOf (bs : List Byte) : PolicyValues where
  valid := (bs.getD 0 0).toNat
  fee := fieldNat bs 1 2
  purseMax := fieldInt bs 3
  gapPolicy := (bs.getD 7 0).toNat
  windowHours := fieldNat bs 8 2
  collectionDays := (bs.getD 10 0).toNat
  tailDays := (bs.getD 11 0).toNat
  dayOffset := fieldNat bs 12 4
  minCarryDays := (bs.getD 16 0).toNat
  maxBackdateDays := (bs.getD 17 0).toNat
  earlySettle := (bs.getD 18 0).toNat

/-- The 17 bytes of a block range row (R191). -/
def rangeValuesOf (bs : List Byte) : RangeValues where
  valid := (bs.getD 0 0).toNat
  base := BitVec.ofNat 56 (fieldNat bs 1 7)
  mask := BitVec.ofNat 56 (fieldNat bs 8 7)
  operator := (bs.getD 15 0).toNat
  reason := bs.getD 16 0

/-- PUT: a table of the four, then the row's values (R165, R191). POLICY_ACTIVE takes the layout of a policy row; for
CASE_DIRECTORY no layout is given, and the length its arguments must have is a free value (DESIGN CHOICE, assumption 12). -/
def readPut (args : List Byte) : Option PutArgs :=
  match args with
  | [] => none
  | table :: bs =>
    match table.toNat with
    | 0 => if bs.length = 19 then some (.policyStandby (policyValuesOf bs)) else none
    | 1 => if bs.length = 19 then some (.policyActive (policyValuesOf bs)) else none
    | 2 => if bs.length = 17 then some (.blockRanges (rangeValuesOf bs)) else none
    | 3 => if bs.length = Config.putDirectoryLength then some .caseDirectory else none
    | _ => none

/-- INTERCEPT: ON or OFF (R48). -/
def readIntercept (args : List Byte) : Option Bool :=
  if args.length = 1 then yesNo? (args.getD 0 0).toNat else none

/-- SET_TIME: a part time (R156). -/
def readSetTime (args : List Byte) : Option Nat := if args.length = 4 then some (fieldNat args 0 4) else none

/-- READ_STATUS: clear counters (R174). -/
def readReadStatus (args : List Byte) : Option Bool :=
  if args.length = 1 then yesNo? (args.getD 0 0).toNat else none

/-- The masks SET_NOTICE_MASK carries; true is masked (R183). -/
structure MaskArgs where
  caseMasked : Bool
  logMasked : Bool
deriving DecidableEq, Repr

def readNoticeMask (args : List Byte) : Option MaskArgs :=
  if args.length = 2 then
    match yesNo? (args.getD 0 0).toNat, yesNo? (args.getD 1 0).toNat with
    | some c, some l => some ⟨c, l⟩
    | _, _ => none
  else none

/-- READ_LOG: a start index 0..31 (R180). -/
def readReadLog (args : List Byte) : Option (Fin 32) :=
  if args.length = 1 then
    if h : (args.getD 0 0).toNat < 32 then some ⟨(args.getD 0 0).toNat, h⟩ else none
  else none

/-- What CLEAR_LOG clears: a record, or the overflow flag (R181). -/
inductive ClearArgs where
  | record (index : Fin 32)
  | overflow
deriving DecidableEq, Repr

/-- CLEAR_LOG: an index 0..31, or 255 for overflow (R181, R191). -/
def readClearLog (args : List Byte) : Option ClearArgs :=
  if args.length = 1 then
    let n := (args.getD 0 0).toNat
    if h : n < 32 then some (.record ⟨n, h⟩) else if n = 255 then some .overflow else none
  else none

/-! ### Executing the next command -/

/-- Whether a code is one of the twenty of Table 9-1 (R165, R191). -/
def knownCode (code : Byte) : Bool := decide (1 ≤ code.toNat) && decide (code.toNat ≤ 20)

/-- READ_STATUS's code (R191), the one command taken during initialization (R165). -/
def readStatusCode : Byte := 16

/-- The Control Unit executes its next command entry when the entry's code is `code` (R163): the initialization and layout
checks of R165, then the command's own rule `run`, then its reply entry. With no such command to execute, nothing happens
(DESIGN CHOICE, assumption 2). The arguments stand in the entry's bytes (DESIGN CHOICE, assumption 1). -/
def State.execute {α : Type} (s : State) (code : Byte) (read : List Byte → Option α) (run : State → α → State × Response) :
    State :=
  match s.nextEntry with
  | none => s
  | some entry =>
    if entryCode entry = code then
      if s.init = .initializing ∧ code ≠ readStatusCode then s.writeReply ⟨code, .initializing, .none⟩
      else
        match read (entryArgs entry) with
        | none => s.writeReply ⟨code, .badArgument, .none⟩
        | some a => (run s a).1.finish code (run s a).2
    else s

/-- A case command's run: a name that names no case is refused NO_SUCH_CASE before any other check (R2). -/
def State.withCase (s : State) (n : CaseName) (run : State → Nat → State × Response) : State × Response :=
  if s.named n.caseNo n.inst then run s n.caseNo else (s, .reply .noSuchCase .none)

end Sys2Proof.Machine
end

