-- ==== Sys2Proof/Machine/Arrivals.lean ====
section
/-! DEFINITION. Arrival lists and coverage (03): classes, the coverage set, protection, room and pruning, the lock of the old
card, and READ_ARRIVALS. -/

namespace Sys2Proof.Machine

/-! ### Classes and roles -/

/-- The class of a record (R60): UNTIMED past the stamp + 600, else PRE before the block instant, else POST. -/
def classOf (deviceTime stamp blockInstant : Nat) : ArrivalClass :=
  if stamp + Config.untimedSlack < deviceTime then .untimed
  else if deviceTime < blockInstant then .pre
  else .post

/-- The arrival with the highest CSN of a list. -/
def highest : List Arrival → Option Arrival
  | [] => none
  | a :: l =>
    match highest l with
    | none => some a
    | some b => if b.csn < a.csn then some a else some b

/-- The arrival with the lowest CSN of a list. -/
def lowest : List Arrival → Option Arrival
  | [] => none
  | a :: l =>
    match lowest l with
    | none => some a
    | some b => if a.csn < b.csn then some a else some b

/-- Whether an arrival is classed PRE. -/
def Arrival.isPre (a : Arrival) : Bool := decide (a.cls = .pre)

/-- Whether an arrival carries a slot: slot field present with that value, pass state after present (R67, R102). -/
def Arrival.carries (a : Arrival) (slot : PassSlot) : Bool := decide (a.slot = some slot) && a.passAfter.isSome

/-- The anchor: the PRE arrival with the highest CSN (R67, R81). -/
def anchorOf (l : List Arrival) : Option Arrival := highest (l.filter Arrival.isPre)

/-- p: the arrival with the lowest CSN among the POST and UNTIMED ones (R67, R82). -/
def firstAfter (l : List Arrival) : Option Arrival := lowest (l.filter (fun a => !a.isPre))

/-- The PRE arrival with the highest CSN that carries a slot (R67, R102). -/
def sourceOf (l : List Arrival) (slot : PassSlot) : Option Arrival :=
  highest (l.filter (fun a => a.isPre && a.carries slot))

/-- Whether an arrival is the one that fills a role, by its CSN. -/
def holdsRole (role : Option Arrival) (a : Arrival) : Bool :=
  match role with
  | some b => b.csn == a.csn
  | none => false

/-- The four pass slots in order. -/
def allSlots : List PassSlot := [0, 1, 2, 3]

/-- The protection roles an arrival holds in a list (R67, R74). -/
def rolesIn (l : List Arrival) (a : Arrival) : ArrivalRoles where
  anchor := holdsRole (anchorOf l) a
  slots := allSlots.filter (fun s => holdsRole (sourceOf l s) a)
  p := holdsRole (firstAfter l) a

/-- Whether an arrival is protected in a list (R67). -/
def protectedIn (l : List Arrival) (a : Arrival) : Bool :=
  let roles := rolesIn l a
  roles.anchor || !roles.slots.isEmpty || roles.p

/-! ### Coverage -/

/-- Whether a CSN is seen: its coverage flag is set (R66). A CSN outside the span has no flag. -/
def seen (coverage : BitVec 256) (baseline csn : Nat) : Bool :=
  decide (baseline < csn) && decide (csn ≤ baseline + Config.coverageSpan) && coverage.getLsbD (csn - baseline - 1)

/-- The coverage set with the flag of a CSN set, when it has one (R64). -/
def cover (coverage : BitVec 256) (baseline csn : Nat) : BitVec 256 :=
  if baseline < csn ∧ csn ≤ baseline + Config.coverageSpan then
    coverage ||| BitVec.ofNat 256 (2 ^ (csn - baseline - 1))
  else coverage

/-- How many of the first `n` CSNs of the span are seen and lie strictly between two bounds. -/
def seenCount (coverage : BitVec 256) (baseline lo hi : Nat) : Nat → Nat
  | 0 => 0
  | n + 1 =>
    (if lo < baseline + 1 + n ∧ baseline + 1 + n < hi ∧ coverage.getLsbD n then 1 else 0)
      + seenCount coverage baseline lo hi n

/-- How many CSNs strictly between two bounds are not seen; `lo` is at or above the baseline CSN (R83, R109). -/
def unseenCount (coverage : BitVec 256) (baseline lo hi : Nat) : Nat :=
  (hi - lo - 1) - seenCount coverage baseline lo hi Config.coverageSpan

/-- Whether a coverage flag is set for a CSN above `csn`, among the first `n` of the span (R73). -/
def coveredAbove (coverage : BitVec 256) (baseline csn : Nat) : Nat → Bool
  | 0 => false
  | n + 1 => (decide (csn < baseline + 1 + n) && coverage.getLsbD n) || coveredAbove coverage baseline csn n

/-! ### The list -/

/-- A list with an arrival in the place its CSN gives it (R59). -/
def insertArrival : List Arrival → Arrival → List Arrival
  | [], a => [a]
  | b :: l, a => if a.csn < b.csn then a :: b :: l else b :: insertArrival l a

/-- A list without the arrival of a CSN. -/
def removeArrival (l : List Arrival) (csn : Nat) : List Arrival := l.filter (fun a => a.csn != csn)

/-- The arrival to discard when room must be made (R69): the unprotected POST or UNTIMED one with the highest CSN, else the
unprotected PRE one with the lowest CSN. -/
def victimOf (l : List Arrival) (incoming : Arrival) : Option Arrival :=
  let spare := l.filter (fun a => !protectedIn (incoming :: l) a)
  match highest (spare.filter (fun a => !a.isPre)) with
  | some a => some a
  | none => lowest (spare.filter Arrival.isPre)

/-- The three outcomes of new evidence (R64): kept, with the list it leaves, whether a free slot was allocated and whether an
arrival was pruned for it; discarded; or left unattached. -/
inductive Room where
  | kept (arrivals : List Arrival) (allocated : Bool)
  | discarded
  | unattached
deriving DecidableEq, Repr

/-- Finding or making room for new evidence (R68 to R71). -/
def findRoom (l : List Arrival) (poolFree : Nat) (a : Arrival) : Room :=
  if l.length < Config.listArrivals ∧ 0 < poolFree then .kept (insertArrival l a) true
  else
    match victimOf l a with
    | some v => .kept (insertArrival (removeArrival l v.csn) a) false
    | none => if protectedIn (a :: l) a then .unattached else .discarded

/-! ### Comparison of copies -/

/-- Equality of pass states after: product, class, days, and for COUNT the rides (R62). -/
def passEqual (a b : PassState) : Bool :=
  decide (a.product = b.product) && decide (a.cls = b.cls) && decide (a.firstDay = b.firstDay)
    && decide (a.lastDay = b.lastDay) && (decide (a.cls = .period) || decide (a.rides = b.rides))

/-- Equality of optional pass states after (R62). -/
def passEqual? : Option PassState → Option PassState → Bool
  | none, none => true
  | some a, some b => passEqual a b
  | _, _ => false

/-- The first field, in the order of the comparison, in which a record differs from the kept arrival (R62). -/
def firstDifference (kept new : Arrival) : Option ComparedField :=
  if kept.kind ≠ new.kind then some .kind
  else if kept.deviceTime ≠ new.deviceTime then some .deviceTime
  else if kept.device ≠ new.device then some .device
  else if kept.amount ≠ new.amount then some .amount
  else if kept.balanceAfter ≠ new.balanceAfter then some .balanceAfter
  else if kept.slot ≠ new.slot then some .slot
  else if !passEqual? kept.passAfter new.passAfter then some .passAfter
  else if kept.ref ≠ new.ref then some .ref
  else none

/-! ### Attachment -/

/-- The arrival a record makes, with its class (R58, R60). -/
def arrivalOf (u : UsageRecord) (kind : RecordKind) (stamp blockInstant : Nat) : Arrival where
  csn := u.csn
  kind := kind
  deviceTime := u.deviceTime
  stamp := stamp
  device := u.device
  operator := u.operator
  amount := u.amount
  balanceAfter := u.balanceAfter
  slot := u.slot
  passAfter := u.passAfter
  ref := u.ref
  cls := classOf u.deviceTime stamp blockInstant

/-- The mark of a record taken as new evidence, by its class (R64). -/
def ArrivalClass.mark : ArrivalClass → Mark
  | .pre => .oldPre
  | .post => .oldPost
  | .untimed => .oldUntimed

/-- The settle request a taken record places, by the state of its case (R65). -/
def requestOnEvidence (r : CaseRecord) : Option SettleMode :=
  match r.state with
  | .collecting => if (r.timing.map Timing.earlySettle).getD false then some .early else none
  | .issued | .lapsed | .collected => if r.flags.forced then none else some .recompute
  | .held | .free | .closed | .cancelled => none

/-- The lock a new record sets: an ACTION_APPLIED naming the case's block ref, while CARD_LOCKED is clear, sets the flag and
the lock CSN, and LOCK_BREACH when a kept or seen CSN lies above it (R72, R73, DEDUCED, assumption 8). -/
def CaseRecord.lockOn (r : CaseRecord) (c : Nat) (a : Arrival) : CaseRecord :=
  if a.kind = .actionApplied ∧ a.ref = some (blockRef c r.inst) ∧ r.flags.cardLocked = false then
    { r with
      lockCsn := some a.csn
      flags := { r.flags with
        cardLocked := true
        lockBreach := r.flags.lockBreach || r.arrivals.any (fun x => decide (a.csn < x.csn))
          || coveredAbove r.coverage r.baselineCsn a.csn Config.coverageSpan } }
  else r

/-- Whether a record routed to attachment breaches the lock: CARD_LOCKED is set and its CSN is above the lock CSN (R73). -/
def CaseRecord.breachedBy (r : CaseRecord) (csn : Nat) : Bool :=
  match r.lockCsn with
  | some l => r.flags.cardLocked && decide (l < csn)
  | none => false

/-- A case record with LOCK_BREACH set (R73). -/
def CaseRecord.breach (r : CaseRecord) : CaseRecord := { r with flags := { r.flags with lockBreach := true } }

/-- The breach check made on every record routed to attachment, whatever mark it received (R73). -/
def State.checkBreach (s : State) (c csn : Nat) : State :=
  if (s.caseAt c).breachedBy csn then s.setCase c (s.caseAt c).breach else s

/-- The pruned count incremented, saturating at 255 (R69, R70). -/
def bumpPruned (n : Nat) : Nat := if n < Config.prunedMax then n + 1 else n

/-- The effects common to a kept and a discarded record (R64). -/
def CaseRecord.taken (r : CaseRecord) (a : Arrival) : CaseRecord :=
  { r with
    coverage := cover r.coverage r.baselineCsn a.csn
    changeCount := r.changeCount + 1
    flags := { r.flags with clockDoubt := r.flags.clockDoubt || decide (a.cls = .untimed) } }

/-- Place the settle request that evidence taken into a case calls for (R65). -/
def State.placeEvidence (s : State) (c : Nat) : State :=
  match requestOnEvidence (s.caseAt c) with
  | some m => s.placeRequest ⟨c, m⟩ false
  | none => s

/-- New evidence that none of R61 to R63 decides (R64 to R71): the lock, then room, then the effects of its outcome. -/
def State.takeNew (s : State) (c : Nat) (a : Arrival) : State × Mark :=
  let locked := (s.caseAt c).lockOn c a
  match findRoom locked.arrivals s.poolFree a with
  | .kept arrivals true =>
    (({ s.setCase c { locked.taken a with arrivals := arrivals } with poolFree := s.poolFree - 1 }).placeEvidence c,
      a.cls.mark)
  | .kept arrivals false =>
    ((s.setCase c { locked.taken a with arrivals := arrivals, pruned := bumpPruned locked.pruned }).placeEvidence c,
      a.cls.mark)
  | .discarded =>
    ((s.setCase c { locked.taken a with pruned := bumpPruned locked.pruned }).placeEvidence c, a.cls.mark)
  | .unattached =>
    ((s.setCase c { locked with flags := { locked.flags with evidenceLost := true } }).logException (some c)
        (some locked.oldCard) (some a.device) (.poolExhausted a.csn a.cls),
      .oldUnattached)

/-- The outcome of attachment before the breach check, by the first test of Table 3-2 that applies (R61 to R64). -/
def State.attachOutcome (s : State) (c : Nat) (a : Arrival) : State × Mark :=
  let r := s.caseAt c
  if a.csn ≤ r.baselineCsn then (s, .oldBaseline)
  else
    match r.arrivals.find? (fun x => x.csn == a.csn) with
    | some kept =>
      match firstDifference kept a with
      | none => (s, .oldDuplicate)
      | some field =>
        ((s.setCase c { r with flags := { r.flags with conflict := true } }).logException (some c) (some r.oldCard)
            (some a.device) (.recordConflict a.csn field),
          .oldConflict)
    | none => if seen r.coverage r.baselineCsn a.csn then (s, .oldDuplicate) else s.takeNew c a

/-- Attachment of an old-card record to a case (section 3.3), with the lock's breach check on the same record (R73). -/
def State.attach (s : State) (c : Nat) (a : Arrival) : State × Mark :=
  ((s.attachOutcome c a).1.checkBreach c a.csn, (s.attachOutcome c a).2)

end Sys2Proof.Machine
end

