-- ==== Sys2Proof/Machine/Actions.lean ====
section
/-! DEFINITION. Restoration actions (06): placing entries, withdrawal, the reconcile step, the service of owing cases, and
collections. An operation that can free room in the Action Queue answers, beside the part, whether it did: the queue's
arbiter then serves the owing cases at the end of the event (R122). -/

namespace Sys2Proof.Machine

/-! ### Placing and withdrawing -/

/-- The ref of a case's generation, under its present instance (R116). -/
def State.refOfCase (s : State) (c generation : Nat) : Ref := ⟨c, (s.caseAt c).inst, generation⟩

/-- Generations in ascending order with one added, at most once (R121). -/
def insertGeneration : List Nat → Nat → List Nat
  | [], g => [g]
  | x :: xs, g => if g < x then g :: x :: xs else if g = x then x :: xs else x :: insertGeneration xs g

/-- A WITHDRAW entry naming a generation is placed, or owed when the queue does not admit it (R120, R121, R123). -/
def State.placeWithdraw (s : State) (c generation : Nat) : State :=
  let r := s.caseAt c
  if s.admitsOther then s.enqueue (.withdraw (s.refOfCase c generation) r.newCard)
  else s.setCase c { r with owed := { r.owed with withdraws := insertGeneration r.owed.withdraws generation } }

/-- An UNBLOCK entry of the case's block ref is placed, or owed (R24, R120, R121). -/
def State.placeUnblock (s : State) (c : Nat) : State :=
  let r := s.caseAt c
  if s.admitsOther then s.enqueue (.unblock (s.refOfCase c 0) r.oldCard)
  else s.setCase c { r with owed := { r.owed with unblock := true } }

/-- A RESTORE of the outstanding action enters the queue: ISSUE_OWED is clear and the collection deadline starts, unless
one is running (R17, R122). -/
def State.queueRestore (s : State) (c : Nat) (o : Outstanding) : State :=
  let r := s.caseAt c
  (s.enqueue (.restore (s.refOfCase c o.generation) r.newCard o.credit o.grants)).setCase c
    ({ r with flags := { r.flags with issueOwed := false } }.startCollection s.time.now)

/-- The outstanding action's RESTORE is placed, or owed with ISSUE_OWED set (R120, R121, R127). -/
def State.placeRestore (s : State) (c : Nat) (o : Outstanding) : State :=
  if s.admitsRestore then s.queueRestore c o
  else
    let r := s.caseAt c
    s.setCase c { r with flags := { r.flags with issueOwed := true } }

/-- Whether an entry is the RESTORE of a ref. -/
def ActionEntry.isRestoreOf (ref : Ref) : ActionEntry → Bool
  | .restore r _ _ _ => r == ref
  | .block _ _ _ _ => false
  | .unblock _ _ => false
  | .withdraw _ _ => false

/-- A case record with no outstanding action and ISSUE_OWED clear. -/
def CaseRecord.clearOutstanding (r : CaseRecord) : CaseRecord :=
  { r with outstanding := none, flags := { r.flags with issueOwed := false } }

/-- Withdraw a case's outstanding RESTORE, by where it stands (R123). The answer's second part says whether an untaken RESTORE
left the queue. -/
def State.withdraw (s : State) (c : Nat) : State × Bool :=
  let r := s.caseAt c
  match r.outstanding with
  | none => (s.setCase c r.clearOutstanding, false)
  | some o =>
    let cleared := s.setCase c r.clearOutstanding
    let ref := s.refOfCase c o.generation
    if r.flags.issueOwed then (cleared, false)
    else if s.actions.untaken.any (ActionEntry.isRestoreOf ref) then
      ({ cleared with
          actions := { s.actions with untaken := s.actions.untaken.filter (fun e => !e.isRestoreOf ref) } }, true)
    else (cleared.placeWithdraw c o.generation, false)

/-! ### The reconcile step -/

/-- The status of a slot. -/
def SlotStatuses.get (t : SlotStatuses) (slot : PassSlot) : GrantStatus :=
  match slot with
  | 0 => t.s0
  | 1 => t.s1
  | 2 => t.s2
  | 3 => t.s3

/-- Four statuses given slot by slot. -/
def SlotStatuses.build (f : PassSlot → GrantStatus) : SlotStatuses := ⟨f 0, f 1, f 2, f 3⟩

/-- The target of the case's result; 0 when it holds none (R126). -/
def CaseRecord.target (r : CaseRecord) : Int := (r.result.map Result.target).getD 0

/-- The desired credit: max(T − applied − unpaid, 0) (R126). -/
def CaseRecord.desiredCredit (r : CaseRecord) : Int := max (r.target - r.applied - r.unpaid) 0

/-- The desired grants: the wanted grants whose slot is WANTED (R126). -/
def CaseRecord.desiredGrants (r : CaseRecord) : List Grant :=
  r.wanted.filter (fun g => decide (r.grantStatus.get g.slot = .wanted))

/-- Whether something is desired (R126). -/
def CaseRecord.desires (r : CaseRecord) : Bool := decide (0 < r.desiredCredit) || !r.desiredGrants.isEmpty

/-- Whether the outstanding action differs from what is desired (R126); false without one. -/
def CaseRecord.differs (r : CaseRecord) : Bool :=
  match r.outstanding with
  | none => false
  | some o => decide (o.credit ≠ r.desiredCredit) || decide (o.grants ≠ r.desiredGrants)

/-- Whether the reconcile step may issue, by the state it runs in and whether it runs at a completion (Table 6-2). -/
def mayIssue (state : CaseState) (atCompletion : Bool) : Bool :=
  match state with
  | .collecting | .held => atCompletion
  | .issued | .collected => true
  | .lapsed | .closed | .cancelled | .free => false

/-- Whether the reconcile step may enter COLLECTED; in COLLECTED the case stays as it is (Table 6-2). -/
def mayCollect (state : CaseState) (atCompletion : Bool) : Bool :=
  match state with
  | .collecting | .held => atCompletion
  | .issued | .lapsed => true
  | .collected | .closed | .cancelled | .free => false

/-- The collection deadline of a record, when that is what is running: kept when a case stays ISSUED (R17). -/
def CaseRecord.keepCollection (r : CaseRecord) : Option Deadline :=
  match r.deadline with
  | some ⟨.collection, v⟩ => some ⟨.collection, v⟩
  | _ => none

/-- Start a restore generation carrying what is desired, or hold the case when its generations are used up (R127 step 2,
R17, R21). -/
def State.issue (s : State) (c : Nat) : State :=
  let r := s.caseAt c
  if r.generation < Config.lastGeneration then
    let o : Outstanding := ⟨r.generation + 1, r.desiredCredit, r.desiredGrants⟩
    (s.setCase c
      { r with generation := r.generation + 1, outstanding := some o, state := .issued, deadline := r.keepCollection }).placeRestore
      c o
  else
    (s.setCase c { r with state := .held, deadline := none, holdReasons := HoldReasons.exhausted }).raiseEvent c
      (.held HoldReasons.exhausted)

/-- Enter COLLECTED: the tail end starts and a COLLECTED event is raised (R22). -/
def State.enterCollected (s : State) (c : Nat) : State :=
  let r := s.caseAt c
  (s.setCase c
    { r with
      state := .collected
      deadline := some (deadlineAt .tailEnd (s.time.now + ((r.timing.map Timing.tailDays).getD 0) * Config.day)) }).raiseEvent
    c (.collected r.applied)

/-- max(applied − T − unpaid, 0) (R128). -/
def CaseRecord.computedOverpaid (r : CaseRecord) : Int := max (r.applied - r.target - r.unpaid) 0

/-- Set overpaid (R128). -/
def State.setOverpaid (s : State) (c : Nat) : State :=
  let r := s.caseAt c
  s.setCase c { r with overpaid := r.computedOverpaid }

/-- R127 step 1: withdraw an outstanding action that differs from what is desired. -/
def State.reconcileWithdraw (s : State) (c : Nat) : State × Bool :=
  if (s.caseAt c).differs then s.withdraw c else (s, false)

/-- R127 step 2: with nothing outstanding, something desired, and issuing allowed, start a generation. -/
def State.reconcileIssue (s : State) (c : Nat) (allowed : Bool) : State :=
  let r := s.caseAt c
  if r.outstanding.isNone && r.desires && allowed then s.issue c else s

/-- R128: with nothing desired and nothing outstanding, and collecting allowed, enter COLLECTED. -/
def State.reconcileCollect (s : State) (c : Nat) (allowed : Bool) : State :=
  let r := s.caseAt c
  if r.outstanding.isNone && !r.desires && allowed then s.enterCollected c else s

/-- The reconcile step of a case (R126 to R129); `atCompletion` when it runs for a completion that writes a result. The
answer's second part says whether an untaken RESTORE left the Action Queue. -/
def State.reconcile (s : State) (c : Nat) (atCompletion : Bool) : State × Bool :=
  let state := (s.caseAt c).state
  let first := s.reconcileWithdraw c
  let second := first.1.reconcileIssue c (mayIssue state atCompletion)
  let third := second.reconcileCollect c (mayCollect state atCompletion)
  (third.setOverpaid c, first.2)

/-! ### The service of owing cases -/

/-- Whether a case owes an entry: an owed RESTORE, WITHDRAW or UNBLOCK (R121). -/
def CaseRecord.owes (r : CaseRecord) : Bool := r.flags.issueOwed || !r.owed.withdraws.isEmpty || r.owed.unblock

/-- Whether a case owes an entry that the queue would now admit: its WITHDRAW and UNBLOCK entries come before its RESTORE
(R122 steps 1 and 2). -/
def State.servable (s : State) (c : Nat) : Bool :=
  let r := s.caseAt c
  if !r.owed.withdraws.isEmpty || r.owed.unblock then s.admitsOther
  else r.flags.issueOwed && s.admitsRestore

/-- Admit owed WITHDRAW entries in ascending generation, as far as the queue admits them (R122 step 2). -/
def State.serveWithdraws (s : State) (c : Nat) : List Nat → State
  | [] => s
  | g :: gs =>
    if s.admitsOther then
      let r := s.caseAt c
      ((s.enqueue (.withdraw (s.refOfCase c g) r.newCard)).setCase c
        { r with owed := { r.owed with withdraws := gs } }).serveWithdraws c gs
    else s

/-- Admit the owed UNBLOCK, once no WITHDRAW is owed (R122 step 2). -/
def State.serveUnblock (s : State) (c : Nat) : State :=
  let r := s.caseAt c
  if r.owed.withdraws.isEmpty && r.owed.unblock && s.admitsOther then
    (s.enqueue (.unblock (s.refOfCase c 0) r.oldCard)).setCase c { r with owed := { r.owed with unblock := false } }
  else s

/-- Admit the owed RESTORE, once nothing else is owed (R122 steps 2 and 3). -/
def State.serveRestore (s : State) (c : Nat) : State :=
  let r := s.caseAt c
  match r.outstanding with
  | some o =>
    if r.owed.withdraws.isEmpty && !r.owed.unblock && r.flags.issueOwed && s.admitsRestore then s.queueRestore c o else s
  | none => s

/-- Serve one owing case: admit its owed entries in order, then run its reconcile step (R122 steps 2 to 4). -/
def State.serveCase (s : State) (c : Nat) : State :=
  ((((s.serveWithdraws c (s.caseAt c).owed.withdraws).serveUnblock c).serveRestore c).reconcile c false).1

/-- Serve the owing cases of a list in turn (R122 steps 1 and 5). -/
def State.serveCases (s : State) : List Nat → State
  | [] => s
  | c :: cs => (if s.servable c then s.serveCase c else s).serveCases cs

/-- The arbiter's service, in ascending case number (R122, DEDUCED, assumption 16). -/
def State.serveOwed (s : State) : State := s.serveCases (s.cases.map Prod.fst)

/-- The end of an event that may have freed room in the Action Queue (R122). -/
def endEvent (outcome : State × Bool) : State := if outcome.2 then outcome.1.serveOwed else outcome.1

/-! ### Collections -/

/-- The counted amount of a collection: the record's amount, or 0 when it is 0 or below (R131). -/
def countedAmount (amount : Int) : Int := max amount 0

/-- A total increased, saturating at 2,000,000 (R131, R133). -/
def addTotal (total more : Int) : Int := min (total + more) Config.totalMax

/-- Whether a mask names a slot (Table 11-2). -/
def maskNames (mask : BitVec 4) (slot : PassSlot) : Bool := mask.getLsbD slot.val

/-- Whether a list of grants carries a slot. -/
def carriesSlot (grants : List Grant) (slot : PassSlot) : Bool := grants.any (fun g => g.slot == slot)

/-- The statuses after a COLLECTION: a carried slot becomes APPLIED when the mask names it, else REFUSED (R132). -/
def SlotStatuses.afterCollection (t : SlotStatuses) (grants : List Grant) (mask : BitVec 4) : SlotStatuses :=
  SlotStatuses.build (fun s => if carriesSlot grants s then (if maskNames mask s then .applied else .refused) else t.get s)

/-- The statuses after a STALE_COLLECTION: a named slot that is WANTED or NONE becomes APPLIED (R133). -/
def SlotStatuses.afterStale (t : SlotStatuses) (mask : BitVec 4) : SlotStatuses :=
  SlotStatuses.build (fun s =>
    if maskNames mask s ∧ (t.get s = .wanted ∨ t.get s = .none) then .applied else t.get s)

/-- Whether the mask names a slot the action did not carry (R132). -/
def maskExceeds (grants : List Grant) (mask : BitVec 4) : Bool :=
  allSlots.any (fun s => maskNames mask s && !carriesSlot grants s)

/-- The case record a COLLECTION leaves, before its reconcile step (R131, R132). -/
def CaseRecord.collect (r : CaseRecord) (o : Outstanding) (counted : Int) (mask : BitVec 4) : CaseRecord :=
  let short := decide (counted < o.credit)
  { r.clearOutstanding with
    applied := addTotal r.applied counted
    unpaid := if short then addTotal r.unpaid (o.credit - counted) else r.unpaid
    grantStatus := r.grantStatus.afterCollection o.grants mask
    flags := { r.clearOutstanding.flags with underApplied := r.flags.underApplied || short } }

/-- A COLLECTION: counted in applied and unpaid, grant statuses set, the outstanding action cleared, at most one
APPLIED_MISMATCH logged, then the reconcile step (R131, R132). -/
def State.collection (s : State) (c : Nat) (o : Outstanding) (amount : Int) (mask : BitVec 4) (device : DeviceId) :
    State × Bool :=
  let r := s.caseAt c
  let counted := countedAmount amount
  let s1 := s.setCase c (r.collect o counted mask)
  let s2 :=
    if counted ≠ o.credit then
      s1.logException (some c) (some r.newCard) (some device) (.appliedMismatch o.generation o.credit counted none)
    else if maskExceeds o.grants mask then
      s1.logException (some c) (some r.newCard) (some device) (.appliedMismatch o.generation o.credit counted (some mask))
    else s1
  s2.reconcile c false

/-- A STALE_COLLECTION: counted in applied, named slots set APPLIED, logged, then the reconcile step (R133). -/
def State.staleCollection (s : State) (c generation : Nat) (amount : Int) (mask : BitVec 4) (device : DeviceId) :
    State × Bool :=
  let r := s.caseAt c
  let counted := countedAmount amount
  let s1 := s.setCase c
    { r with applied := addTotal r.applied counted, grantStatus := r.grantStatus.afterStale mask }
  (s1.logException (some c) (some r.newCard) (some device) (.staleCollection generation counted)).reconcile c false

/-- The marks of a collection (Table 6-3): which row of the table a ref falls in, for the case the new card belongs to. -/
inductive CollectionRow where
  | foreign
  | current (o : Outstanding)
  | stale
deriving DecidableEq, Repr

/-- The row of Table 6-3 that holds first (R130). -/
def collectionRow (r : CaseRecord) (c : Nat) (ref : Ref) : CollectionRow :=
  if ref.caseNo ≠ c ∨ ref.inst ≠ r.inst then .foreign
  else if ref.generation = 0 then .foreign
  else
    match r.outstanding with
    | some o =>
      if ref.generation = o.generation then .current o
      else if ref.generation ≤ r.generation then .stale else .foreign
    | none => if ref.generation ≤ r.generation then .stale else .foreign

/-- A collection: an ACTION_APPLIED record of a case's new card, judged by its ref (R130 to R134). -/
def State.takeCollection (s : State) (c : Nat) (card : CardId) (ref : Ref) (amount : Int) (mask : BitVec 4)
    (device : DeviceId) : (State × Bool) × Mark :=
  match collectionRow (s.caseAt c) c ref with
  | .foreign => ((s.logException (some c) (some card) (some device) (.foreignAction ref), false), .foreignAction)
  | .current o => (s.collection c o amount mask device, .collection)
  | .stale => (s.staleCollection c ref.generation amount mask device, .staleCollection)

end Sys2Proof.Machine
end

