-- ==== Sys2Proof/Machine/Deadlines.lean ====
section
/-! DEFINITION. What the expiry of each deadline does (R13, R18, R23), and the deadlines that an event sets to a value part time has
already reached: they expire as soon as the event has taken effect (R8, R159). -/

namespace Sys2Proof.Machine

/-! ### The three expiries -/

/-- A case record whose deadline has expired: the deadline is absent (R8). -/
def CaseRecord.expired (r : CaseRecord) : CaseRecord := { r with deadline := none }

/-- The window end of a case expires: a FINAL request is placed under the FIFO's rules, so that nothing is asked for while a
FORCED request waits (R13, R77). -/
def State.windowExpires (s : State) (c : Nat) (r : CaseRecord) : State :=
  (s.setCase c r.expired).placeRequest ⟨c, .final⟩ false

/-- The generation a lapse withdraws, or 0 if none was outstanding (R28; no rule gives it, DESIGN CHOICE,
assumption 19). -/
def CaseRecord.lapsedGeneration (r : CaseRecord) : Nat := (r.outstanding.map Outstanding.generation).getD 0

/-- The collection deadline of a case expires: the RESTORE is withdrawn, the case enters LAPSED with a LAPSED event, and room
that was freed is served (R18, R122, R136). -/
def State.collectionExpires (s : State) (c : Nat) (r : CaseRecord) : State :=
  let w := (s.setCase c r.expired).withdraw c
  endEvent ((w.1.setCase c { w.1.caseAt c with state := .lapsed }).raiseEvent c (.lapsed r.lapsedGeneration), w.2)

/-- The tail end of a case expires: it enters CLOSED with a CLOSED event (R23). -/
def State.tailExpires (s : State) (c : Nat) (r : CaseRecord) : State :=
  (s.setCase c { r.expired with state := .closed }).raiseEvent c (.closed r.overpaid)

/-- The expiry of a case's deadline, by its kind (R8). -/
def State.expire (s : State) (c : Nat) (r : CaseRecord) : State :=
  match r.deadline.map Deadline.kind with
  | some .windowEnd => s.windowExpires c r
  | some .collection => s.collectionExpires c r
  | some .tailEnd => s.tailExpires c r
  | none => s

/-! ### Deadlines set to a value already reached -/

/-- The lowest-numbered case whose deadline an event that began in `before` has set to a value part time has reached (R8, R159). -/
def State.reachedSince (before s : State) : Option Nat :=
  (s.cases.map Prod.fst).find? (fun c =>
    (s.caseAt c).isDue s.time.now && decide ((s.caseAt c).deadline ≠ (before.caseAt c).deadline))

/-- At most so many expiries of deadlines set since `before`, one case at a time, the lowest case number first. -/
def State.expireReached (before : State) : Nat → State → State
  | 0, s => s
  | n + 1, s =>
    match before.reachedSince s with
    | some c => State.expireReached before n (s.expire c (s.caseAt c))
    | none => s

/-- The part after an event that began in `before`: every deadline it set to a value part time had already reached expires
(R8, R159; the order by case number is DEDUCED, assumption 27). A case can so pass through COLLECTED to CLOSED (R22), or through
ISSUED, LAPSED and COLLECTED, and has two deadlines at most. -/
def State.afterReached (s before : State) : State := State.expireReached before (2 * s.cases.length) s

end Sys2Proof.Machine
end

