-- ==== Sys2Proof/Machine/Purse.lean ====
section
/-! DEFINITION. The purse computation (04 sections 4.2 to 4.4): anchor, p, the missing set, the basis, and the fee, floor and
clip stages. -/

namespace Sys2Proof.Machine

/-- The anchor balance A: the anchor's balance after, or the baseline balance (R81). -/
def Evidence.anchorBalance (e : Evidence) : Int :=
  match anchorOf e.arrivals with
  | some a => a.balanceAfter
  | none => e.baselineBalance

/-- The anchor CSN: the anchor's CSN, or the baseline CSN (R81). -/
def Evidence.anchorCsn (e : Evidence) : Nat :=
  match anchorOf e.arrivals with
  | some a => a.csn
  | none => e.baselineCsn

/-- The balance before p: p's balance after minus p's amount (R82). -/
def Arrival.balanceBefore (p : Arrival) : Int := p.balanceAfter - p.amount

/-- The upper bound of the missing set: p's CSN, or the anchor CSN when there is no p (R83, R109). -/
def Evidence.upperCsn (e : Evidence) : Nat :=
  match firstAfter e.arrivals with
  | some p => p.csn
  | none => e.anchorCsn

/-- The size of the missing set (R83). -/
def Evidence.missing (e : Evidence) : Nat := unseenCount e.coverage e.baselineCsn e.baselineCsn e.upperCsn

/-- The number of purse gaps: members of the missing set above the anchor CSN (R83). -/
def Evidence.purseGaps (e : Evidence) : Nat :=
  match firstAfter e.arrivals with
  | some p => unseenCount e.coverage e.baselineCsn e.anchorCsn p.csn
  | none => 0

/-- The status of stage 1 (R84). -/
def Evidence.status (e : Evidence) : ResultStatus :=
  match firstAfter e.arrivals with
  | some _ => if e.purseGaps = 0 then .confirmed else .gapResolved
  | none => .unconfirmed

/-- A value clamped into the range of a balance (R15, R86). -/
def clampBalance (v : Int) : Int := max Config.minBalance (min v Config.maxBalance)

/-- The basis under a gap policy (R85, R86, R87). -/
def Evidence.basis (e : Evidence) (policy : GapPolicy) : Int :=
  match firstAfter e.arrivals with
  | some p =>
    if e.purseGaps = 0 then e.anchorBalance
    else
      match policy with
      | .holder => clampBalance (max e.anchorBalance p.balanceBefore)
      | .operator => clampBalance (min e.anchorBalance p.balanceBefore)
  | none => e.anchorBalance

/-- The consistency check of a CONFIRMED basis: whether the balance before p differs from A (R85). -/
def Evidence.mismatch (e : Evidence) : Bool :=
  match firstAfter e.arrivals with
  | some p => decide (e.purseGaps = 0) && decide (p.balanceBefore ≠ e.anchorBalance)
  | none => false

/-- The fee taken: the captured fee, or 0 when it is waived (R88). -/
def feeTaken (money : MoneyTerms) (waived : Bool) : Int := if waived then 0 else money.fee

/-- Stages 2 to 4 on a basis: fee, floor, clip (R88, R89, R90). -/
def purseResult (status : ResultStatus) (basis : Int) (money : MoneyTerms) (waived : Bool) : Result :=
  let n := basis - feeTaken money waived
  let t := max n 0
  { basis := basis
    status := status
    target := min t money.purseMax
    shortfall := max (-n) 0
    excess := max (t - money.purseMax) 0 }

/-- Whether stage 4 cut the target to the purse maximum (R90). -/
def Result.clipped (r : Result) : Bool := decide (0 < r.excess)

end Sys2Proof.Machine
end

