-- ==== Sys2Proof/Machine/CarryOver.lean ====
section
/-! DEFINITION. Season ticket carry-over (05): sources, service days, the grants of PERIOD and COUNT passes, and the grant
statuses a completion writes. -/

namespace Sys2Proof.Machine

/-- The service day of a part time under a day offset: floor((t − d) / 86,400) (R103). -/
def serviceDay (t offset : Nat) : Int := ((t : Int) - offset) / 86400

/-- The block day: the service day of the block instant under the captured day offset (R104). -/
def Evidence.blockDay (e : Evidence) : Int :=
  serviceDay e.blockInstant ((e.timing.map Timing.dayOffset).getD 0)

/-- The baseline record of a slot. -/
def Evidence.baselinePass (e : Evidence) (slot : PassSlot) : Option PassState :=
  (e.baselinePasses.find? (fun p => p.slot == slot)).map PassRecord.pass

/-- The source state and source CSN of a slot; no state for the empty slot (R102). -/
def Evidence.source (e : Evidence) (slot : PassSlot) : Option PassState × Nat :=
  match sourceOf e.arrivals slot with
  | some a => (a.passAfter, a.csn)
  | none => (e.baselinePass slot, e.baselineCsn)

/-- Whether a pass state can give a grant: usable, and not the empty slot (R100, R102). -/
def PassState.grantable (p : PassState) : Bool :=
  decide (0 < p.product) && decide (p.firstDay ≤ p.lastDay)
    && (match p.cls with
        | .period => true
        | .count => decide (p.rides ≤ 1000))

/-- The reduction of a COUNT pass's rides under OPERATOR: the CSNs between the source and p, or the anchor when there is
no p, that are not seen; under HOLDER none (R109). -/
def Evidence.rideReduction (e : Evidence) (policy : GapPolicy) (sourceCsn : Nat) : Nat :=
  match policy with
  | .holder => 0
  | .operator => unseenCount e.coverage e.baselineCsn sourceCsn e.upperCsn

/-- The grant of a PERIOD source and whether it was clipped at 366 days (R105, R106, R107). -/
def periodGrant (slot : PassSlot) (p : PassState) (blockDay : Int) (minCarry : Nat) : Option Grant × Bool :=
  if blockDay < p.firstDay then (some ⟨slot, p.product, .dated p.firstDay p.lastDay⟩, false)
  else
    let remaining := (p.lastDay : Int) - blockDay
    if remaining ≤ 0 ∨ remaining < minCarry then (none, false)
    else
      (some ⟨slot, p.product, .duration (min remaining.toNat Config.maxGrantDays)⟩,
        decide ((Config.maxGrantDays : Int) < remaining))

/-- The grant of a COUNT source (R108, R109). -/
def countGrant (slot : PassSlot) (p : PassState) (blockDay : Int) (reduction : Nat) : Option Grant :=
  if (p.lastDay : Int) < blockDay then none
  else if p.rides ≤ reduction then none
  else some ⟨slot, p.product, .rides (p.rides - reduction) p.lastDay⟩

/-- The grant built for a slot, and whether it was clipped (R111). -/
def Evidence.slotGrant (e : Evidence) (money : MoneyTerms) (slot : PassSlot) : Option Grant × Bool :=
  match e.source slot with
  | (none, _) => (none, false)
  | (some p, csn) =>
    if p.grantable then
      match p.cls with
      | .period => periodGrant slot p e.blockDay money.minCarryDays
      | .count => (countGrant slot p e.blockDay (e.rideReduction money.gapPolicy csn), false)
    else (none, false)

/-- The grants built, in ascending slot order (R111). -/
def Evidence.grants (e : Evidence) (money : MoneyTerms) : List Grant :=
  allSlots.filterMap (fun s => (e.slotGrant money s).1)

/-- Whether any grant built was clipped (R107). -/
def Evidence.daysClipped (e : Evidence) (money : MoneyTerms) : Bool := allSlots.any (fun s => (e.slotGrant money s).2)

/-- The statuses after a completion writes wanted grants: APPLIED and REFUSED stay; any other slot is WANTED when a grant was
built for it, NONE when not (R112). -/
def SlotStatuses.afterGrants (t : SlotStatuses) (grants : List Grant) : SlotStatuses :=
  SlotStatuses.build (fun s =>
    match t.get s with
    | .applied => .applied
    | .refused => .refused
    | .wanted | .none => if carriesSlot grants s then .wanted else .none)

end Sys2Proof.Machine
end

