-- ==== Sys2Proof/Machine/Settlement.lean ====
section
/-! DEFINITION. The Settlement Unit (04): the start of an operation, its completion by mode, and the bank flip a completion
releases (07). -/

namespace Sys2Proof.Machine

/-! ### The start of an operation -/

/-- The case fields an operation reads at its start (R78). -/
def CaseRecord.evidence (r : CaseRecord) : Evidence where
  arrivals := r.arrivals
  coverage := r.coverage
  baselineCsn := r.baselineCsn
  baselineBalance := r.baselineBalance
  baselinePasses := r.baselinePasses
  blockInstant := r.blockInstant
  feeWaived := r.feeWaived
  timing := r.timing
  money := r.money

/-- Whether an operation reads the operator row (R76, R78). -/
def readsRow (mode : SettleMode) (r : CaseRecord) : Bool :=
  match mode with
  | .early | .final => true
  | .forced _ _ => r.money.isNone
  | .recompute => false

/-- The operation started on a request (R78). -/
def State.operationOn (s : State) (req : SettleRequest) : Operation :=
  let r := s.caseAt req.caseNo
  { caseNo := req.caseNo
    inst := r.inst
    mode := req.mode
    changeCount := r.changeCount
    evidence := r.evidence
    row := if readsRow req.mode r then some (s.activeRow r.operator) else none }

/-- The Settlement Unit starts its head request when no operation is in flight and switch-pending is clear (R78). -/
def State.startOperation (s : State) : State :=
  match s.settle.fifo with
  | [] => s
  | req :: rest =>
    if s.settle.inFlight.isNone && !s.policy.switchPending then
      { s with settle := { fifo := rest, inFlight := some (s.operationOn req) } }
    else s

/-! ### The bank flip -/

/-- The other bank. -/
def Bank.other : Bank → Bank
  | .a => .b
  | .b => .a

/-- The flip: the selector names the other bank and switch-pending is clear (R148). -/
def State.flip (s : State) : State :=
  { s with policy := { s.policy with active := s.policy.active.other, switchPending := false } }

/-- The flip a completion releases, with the reply of the SWITCH_POLICY that waits for it (R147). -/
def State.flipIfPending (s : State) : State :=
  if s.policy.switchPending then s.flip.completeHeld .switchPolicy else s

/-! ### Completions -/

/-- The money fields of an operator row (R96). -/
def OperatorRow.money (row : OperatorRow) : MoneyTerms := ⟨row.fee, row.purseMax, row.gapPolicy, row.minCarryDays⟩

/-- Whether the operator row an operation read is invalid (R92, R95). -/
def Operation.rowInvalid (op : Operation) : Bool :=
  match op.row with
  | some row => !row.valid
  | none => false

/-- The money a completion uses: the captured one, else that of the row it read (R86, R91, R93, R94, R98). -/
def Operation.money (op : Operation) : MoneyTerms :=
  match op.evidence.money with
  | some m => m
  | none =>
    match op.row with
    | some row => row.money
    | none => OperatorRow.reset.money

/-- The result of a completion: a FORCED one from its basis, any other from stage 1 (R84, R94). -/
def Operation.result (op : Operation) : Result :=
  match op.mode with
  | .forced basis _ => purseResult .forced basis op.money op.evidence.feeWaived
  | .early | .final | .recompute =>
    purseResult op.evidence.status (op.evidence.basis op.money.gapPolicy) op.money op.evidence.feeWaived

/-- Whether the completion makes the consistency check and finds a mismatch (R85, R94). -/
def Operation.mismatch (op : Operation) : Bool :=
  match op.mode with
  | .forced _ _ => false
  | .early | .final | .recompute => op.evidence.mismatch

/-- Whether a FORCED request asked for no passes (R110). -/
def Operation.noPasses (op : Operation) : Bool :=
  match op.mode with
  | .forced _ np => np
  | .early | .final | .recompute => false

/-- Whether the operation is FORCED. -/
def Operation.isForced (op : Operation) : Bool :=
  match op.mode with
  | .forced _ _ => true
  | .early | .final | .recompute => false

/-- The wanted grants a completion writes (R110, R111). -/
def Operation.grants (op : Operation) : List Grant := if op.noPasses then [] else op.evidence.grants op.money

/-- Whether a grant it writes was clipped (R107). -/
def Operation.daysClipped (op : Operation) : Bool := !op.noPasses && op.evidence.daysClipped op.money

/-- A case record with the MISMATCH flag of a completion's check (R85). -/
def CaseRecord.checked (r : CaseRecord) (op : Operation) : CaseRecord :=
  { r with flags := { r.flags with mismatch := r.flags.mismatch || op.mismatch } }

/-- The case record a completion that writes a result leaves, before its event and reconcile step: result, flags, money,
grants and statuses (R94, R97, R98, R112). -/
def CaseRecord.settledBy (r : CaseRecord) (op : Operation) : CaseRecord :=
  { r with
    result := some op.result
    money := some (r.money.getD op.money)
    wanted := op.grants
    grantStatus := r.grantStatus.afterGrants op.grants
    flags :=
      { r.flags with
        mismatch := r.flags.mismatch || op.mismatch
        clip := r.flags.clip || op.result.clipped
        daysClipped := r.flags.daysClipped || op.daysClipped
        forced := r.flags.forced || op.isForced } }

/-- A completion of EARLY, FINAL or FORCED mode writes its result, raises SETTLED and runs the reconcile step (R97). -/
def State.writeFirst (s : State) (op : Operation) : State × Bool :=
  ((s.setCase op.caseNo ((s.caseAt op.caseNo).settledBy op)).raiseEvent op.caseNo
    (.settled op.result.status op.result.target)).reconcile op.caseNo true

/-- Whether an EARLY completion writes a result: row valid, CONFIRMED, nothing missing, no hold flag (R91). -/
def earlyWrites (op : Operation) (r : CaseRecord) : Bool :=
  !op.rowInvalid && decide (op.evidence.status = .confirmed) && decide (op.evidence.missing = 0)
    && !(r.checked op).flags.held

/-- An EARLY completion that takes effect (R91). -/
def State.completeEarly (s : State) (op : Operation) : State × Bool :=
  let r := s.caseAt op.caseNo
  if earlyWrites op r then s.writeFirst op else (s.setCase op.caseNo (r.checked op), false)

/-- A case enters HELD, or stays HELD, with hold reasons and a HELD event; its deadline becomes absent (R14, R92, R95). -/
def State.hold (s : State) (c : Nat) (r : CaseRecord) (reasons : HoldReasons) : State :=
  (s.setCase c { r with state := .held, deadline := none, holdReasons := reasons }).raiseEvent c (.held reasons)

/-- A FINAL completion that takes effect: the hold decision, else a result (R92, R93). -/
def State.completeFinal (s : State) (op : Operation) : State × Bool :=
  let r := (s.caseAt op.caseNo).checked op
  if op.rowInvalid || r.flags.held then (s.hold op.caseNo r (r.flags.reasons op.rowInvalid), false)
  else s.writeFirst op

/-- A FORCED completion that takes effect: refused for policy, else a result (R94, R95). -/
def State.completeForced (s : State) (op : Operation) : State × Bool :=
  if op.rowInvalid then (s.hold op.caseNo (s.caseAt op.caseNo) HoldReasons.noPolicyOnly, false)
  else s.writeFirst op

/-- A RECOMPUTE completion that takes effect: the result is written; when T or the wanted grants changed, ADJUSTED is raised
and the reconcile step runs (R98, R99). -/
def State.completeRecompute (s : State) (op : Operation) : State × Bool :=
  let r := s.caseAt op.caseNo
  let written := s.setCase op.caseNo (r.settledBy op)
  if op.result.target ≠ r.target ∨ op.grants ≠ r.wanted then
    (written.raiseEvent op.caseNo (.adjusted (op.result.target - r.target))).reconcile op.caseNo true
  else (written, false)

/-- A completion that takes effect, by its mode (R79 step 4). -/
def State.completeBy (s : State) (op : Operation) : State × Bool :=
  match op.mode with
  | .early => s.completeEarly op
  | .final => s.completeFinal op
  | .forced _ _ => s.completeForced op
  | .recompute => s.completeRecompute op

/-- The tests of a completion, in order: released, mode no longer applies, change count differs; else it takes effect (R79). -/
def State.complete (s : State) (op : Operation) : State × Bool :=
  let r := s.caseAt op.caseNo
  if r.state = .free ∨ r.inst ≠ op.inst then (s, false)
  else if op.mode.applies r = false then (s, false)
  else if r.changeCount ≠ op.changeCount then (s.placeRequest ⟨op.caseNo, op.mode⟩ true, false)
  else s.completeBy op

/-- The completion of the operation in flight, with the service of room it freed (R122) and the deadlines it set to a value already
reached (R8); then a waiting flip is taken (R79, R147). -/
def State.completeOperation (s : State) : State :=
  match s.settle.inFlight with
  | none => s
  | some op =>
    ((endEvent ({ s with settle := { s.settle with inFlight := none } }.complete op)).afterReached s).flipIfPending

end Sys2Proof.Machine
end

