-- ==== Sys2Proof/Machine/Resets.lean ====
section
/-! DEFINITION. HARD_RESET and INITIALIZATION_END (R166), and SOFT_RESET (R176). -/

namespace Sys2Proof.Machine

/-- HARD_RESET (R166): all state in the part is lost and the initialization period begins. The commands waiting and the index of
the free values are the model's own and stay (DESIGN CHOICE, assumption 4). -/
def execHardReset (s : State) : Host.Outcome State Fault Refusal :=
  .next { State.reset with freeDraws := s.freeDraws, pending := s.pending }

/-- The part when the clearing of the initialization period is complete: what R1, R6, R57, R75, R119, R141 and R150 give for its
end, and the empty path of R32. -/
def State.cleared (s : State) : State :=
  { s with
    init := .ready
    dp := { s.dp with buffer := [] }
    intake := { s.intake with queue := [] }
    forward := []
    index := []
    ranges := State.reset.ranges
    cases := []
    poolFree := Config.poolSlots
    settle := ⟨[], none⟩
    actions := ⟨[], [], 0⟩
    policy := PolicyBanks.reset }

/-- INITIALIZATION_END (R166). -/
def execInitializationEnd (s : State) : Host.Outcome State Fault Refusal :=
  .next (match s.init with
    | .initializing => s.cleared
    | .ready => s)

/-- A notice parcel that is built and not being sent is withdrawn: its events become untaken again at the head of the queue,
in their order, and its summary is discarded (R185). One whose frame a falling CP link has cut waits to be sent again (R55, R184),
so it is withdrawn too (DESIGN CHOICE, assumption 29). -/
def State.withdrawNotice (s : State) : State :=
  if s.notices.parcel.isSome && decide (s.cp.sending ≠ some .notice) then
    { s with
      notices := { s.notices with taken := [], untaken := s.notices.taken ++ s.notices.untaken, parcel := none } }
  else s

/-- The effect of SOFT_RESET (R176): window, masks, pending flags, counters, Exception Log, drop-run flag, the control parcels
behind its own, and a notice parcel not yet being sent (R185). CASE pending is left clear (DESIGN CHOICE, assumption 9). -/
def State.softReset (s : State) : State :=
  let t := s.withdrawNotice
  { t with
    control := { t.control with window := TableWindow.reset, dropped := 0 }
    notices :=
      { t.notices with lost := 0, caseMasked := true, logMasked := true, casePending := false, logPending := false }
    log := ExceptionLog.reset
    dp := { t.dp with dropRun := false, dropped := 0 }
    cp := { t.cp with queue := t.cp.queue.take 1 } }

/-- SOFT_RESET as a command: status OK (R176). -/
def runSoftReset (s : State) (_ : Unit) : State × Response := (s.softReset, .reply .ok .none)

/-- SOFT_RESET (R176). -/
def execSoftReset (s : State) : Host.Outcome State Fault Refusal := .next (s.execute 20 readNone runSoftReset)

end Sys2Proof.Machine
end

