-- ==== Sys2Proof/Machine/Ports.lean ====
section
/-! DEFINITION. The two ports: link changes, frames received, the CP output arbiter and the end of a frame's sending, and the
Action Emitter's parcels (R30 to R32, R36, R52 to R55, R124, R125, R162). -/

namespace Sys2Proof.Machine

/-! ### Links -/

/-- The frame of an action parcel is cut: its entries become untaken again, at the head of the queue in their order, and the
sequence is not incremented (R125). -/
def ActionUnit.cut (a : ActionUnit) : ActionUnit := { a with taken := [], untaken := a.taken ++ a.untaken }

/-- The part after a link indication falls: the link is DOWN and any frame being sent on the port is cut (R30, R55, R125). A
cut parcel stays with its source. -/
def State.dropLink (s : State) : Port → State
  | .device => { s with dp := { s.dp with link := .down }, actions := s.actions.cut }
  | .clearing => { s with cp := { s.cp with link := .down, sending := none } }

/-- The part after a link indication rises (R30, R36). -/
def State.raiseLink (s : State) : Port → State
  | .device => { s with dp := { s.dp with link := .up } }
  | .clearing => { s with cp := { s.cp with link := .up } }

/-- LINK_DOWN. -/
def execLinkDown (port : Port) (s : State) : Host.Outcome State Fault Refusal := .next (s.dropLink port)

/-- LINK_UP. -/
def execLinkUp (port : Port) (s : State) : Host.Outcome State Fault Refusal := .next (s.raiseLink port)

/-! ### Frames received -/

/-- Whether a frame carries a parcel to a port: its frame check holds and its payload is at most 9,000 bytes (R30, R187;
DESIGN CHOICE, assumption 21: a frame arrives whole). -/
def carriesParcel (f : RxFrame) : Bool := f.checkOk && decide (f.payload.length ≤ Config.maxPayload)

/-- The source ID and parcel sequence a dropped parcel's header carries as received, unchecked (R31): payload bytes 4 to 6
and 7 to 8, whatever the parcel length says. For a parcel length below 7 some of those bytes lie in what R187 calls padding
that the part does not read, and the spec says nothing of the detail: reading them all the same is unsafe (DESIGN CHOICE,
assumption 32). A payload too short to hold them gives free values (DESIGN CHOICE, assumption 10). -/
def droppedHeader (payload : List Byte) (draw : Nat) : SourceId × ParcelSeq :=
  if 9 ≤ payload.length then (BitVec.ofNat 24 (fieldNat payload 4 3), BitVec.ofNat 16 (fieldNat payload 7 2))
  else (Config.headerlessSource draw, Config.headerlessSeq draw)

/-- A parcel dropped at the full DP buffer: counted, and logged when it is the first of its run (R31). -/
def State.dropParcel (s : State) (payload : List Byte) : State :=
  let h := droppedHeader payload s.freeDraws
  let counted := { s with dp := { s.dp with dropped := bump s.dp.dropped, dropRun := true } }
  if s.dp.dropRun then counted
  else
    { counted with freeDraws := s.freeDraws + 1 }.logException none none none (.parcelDropped h.1 h.2)

/-- A parcel arrives at the Device Port: dropped and counted during initialization (R32), buffered while there is room (R30),
else dropped (R31). -/
def State.deviceParcel (s : State) (payload : List Byte) : State :=
  match s.init with
  | .initializing => { s with dp := { s.dp with dropped := bump s.dp.dropped } }
  | .ready =>
    if s.dp.buffer.length < Config.dpBufferParcels then
      { s with dp := { s.dp with buffer := s.dp.buffer ++ [payload], dropRun := false } }
    else s.dropParcel payload

/-- DP_PARCEL_ARRIVAL: received while the link is UP; a frame that carries no parcel is discarded (R30). -/
def execDpParcelArrival (frame : RxFrame) (s : State) : Host.Outcome State Fault Refusal :=
  .next (if decide (s.dp.link = .up) && carriesParcel frame then s.deviceParcel frame.payload else s)

/-- A CONTROL parcel that passed its checks joins the control queue, or is dropped, counted and logged (R162). -/
def State.controlParcel (s : State) (p : Parcel) : State :=
  if s.cp.queue.length < Config.controlParcels then
    { s with cp := { s.cp with queue := s.cp.queue ++ [⟨p.header, p.entries⟩] } }
  else
    { s with control := { s.control with dropped := bump s.control.dropped } }.logException none none none
      (.controlDropped p.header.source p.header.seq)

/-- A parcel arrives at the Clearing Port: header checks, kind check, then the control queue (R36). -/
def State.clearingParcel (s : State) (payload : List Byte) : State :=
  match checkParcel payload with
  | .error check => s.logException none none none (.parcelMalformed .clearing check)
  | .ok p =>
    match p.header.kind with
    | .control => s.controlParcel p
    | kind => s.logException none none none (.wrongPort .clearing kind p.header.source)

/-- CP_PARCEL_ARRIVAL: no parcel arrives while the link is DOWN (R36). -/
def execCpParcelArrival (frame : RxFrame) (s : State) : Host.Outcome State Fault Refusal :=
  .next (if decide (s.cp.link = .up) && carriesParcel frame then s.clearingParcel frame.payload else s)

/-! ### The CP output -/

/-- Whether the Control Unit offers a reply parcel (R163). -/
def State.offersReply (s : State) : Bool :=
  match s.control.phase with
  | .offering _ => true
  | .idle | .executing _ _ => false

/-- The first waiting source: a reply, then a notice, then a forwarded parcel (R54). -/
def State.firstSource (s : State) : Option CpSource :=
  if s.offersReply then some .reply
  else if s.notices.parcel.isSome then some .notice
  else if s.forward.isEmpty then none
  else some .forward

/-- CP_OUTPUT_GRANT: with the link UP and the output free, the first waiting source is granted it (R54). -/
def execCpOutputGrant (s : State) : Host.Outcome State Fault Refusal :=
  .next (if decide (s.cp.link = .up) && s.cp.sending.isNone then
    { s with cp := { s.cp with sending := s.firstSource } } else s)

/-- The part when a source's frame has left the Clearing Port (R54): the reply and its control parcel are done with (R164), the
notice and its events (R184), or the forwarded parcel leaves the forward queue. -/
def State.sent (s : State) : CpSource → State
  | .reply =>
    { s with
      cp := { s.cp with sending := none, queue := s.cp.queue.tail }
      control := { s.control with phase := .idle } }
  | .notice =>
    { s with
      cp := { s.cp with sending := none }
      notices := { s.notices with taken := [], parcel := none, seq := s.notices.seq + 1 } }
  | .forward => { s with cp := { s.cp with sending := none }, forward := s.forward.tail }

/-- CP_SEND_COMPLETE. -/
def execCpSendComplete (s : State) : Host.Outcome State Fault Refusal :=
  .next (match s.cp.sending with
    | some source => s.sent source
    | none => s)

/-! ### Action parcels -/

/-- ACTION_PARCEL_START: with the DP link UP and no action parcel being sent, up to 16 untaken entries at the head are taken
into one parcel (R124). -/
def execActionParcelStart (s : State) : Host.Outcome State Fault Refusal :=
  .next (if decide (s.dp.link = .up) && s.actions.taken.isEmpty then
    { s with
      actions :=
        { s.actions with
          taken := s.actions.untaken.take Config.actionParcelEntries
          untaken := s.actions.untaken.drop Config.actionParcelEntries } }
    else s)

/-- The part when an action parcel's frame has left the port: its entries leave the queue, the sequence is incremented, and
the room freed is served (R122, R124); a collection deadline or tail end this starts can have been reached (R8). -/
def State.actionsSent (s : State) : State :=
  { s with actions := { s.actions with taken := [], seq := s.actions.seq + 1 } }.serveOwed.afterReached s

/-- ACTION_PARCEL_SENT. -/
def execActionParcelSent (s : State) : Host.Outcome State Fault Refusal :=
  .next (if s.actions.taken.isEmpty then s else s.actionsSent)

end Sys2Proof.Machine
end

