-- ==== Sys2Proof/Machine/Intake.lean ====
section
/-! DEFINITION. The Intake Unit, the forward queue's entry, and the intercept setting (R33 to R40, R48 to R53). -/

namespace Sys2Proof.Machine

/-- The record entries in use in the intake queue (R37). -/
def IntakeUnit.used (u : IntakeUnit) : Nat := (u.queue.map (fun p => p.records.length)).sum

/-- A record as it is placed in the intake queue: stamped, and marked MALFORMED when it fails a check (R38, R39). -/
def intakeRecord (now : Nat) (raw : List Byte) : IntakeRecord :=
  ⟨raw, now, if (usageRecord raw).malformed then some .malformed else none⟩

/-- The position of the first record that a test picks. -/
def positionOf {α : Type} (test : α → Bool) : List α → Option Nat
  | [] => none
  | a :: l => if test a then some 0 else (positionOf test l).map (· + 1)

/-- Whether a record entry was marked MALFORMED (R39). -/
def IntakeRecord.isMalformed (r : IntakeRecord) : Bool := decide (r.mark = some .malformed)

/-- RECORDS_MALFORMED for a parcel with one or more MALFORMED records (R40). -/
def State.logMalformed (s : State) (h : Header) (records : List IntakeRecord) : State :=
  match records.find? IntakeRecord.isMalformed, positionOf IntakeRecord.isMalformed records with
  | some r, some first =>
    let u := usageRecord r.raw
    s.logException none (if u.card = 0 then none else some u.card) (some u.device)
      (.recordsMalformed h.source h.seq (records.filter IntakeRecord.isMalformed).length first)
  | _, _ => s

/-- An UPLOAD parcel taken whole into the intake queue (R37, R38, R39, R40). -/
def State.takeUpload (s : State) (p : Parcel) : State :=
  let records := p.entries.map (intakeRecord s.time.now)
  { s with
    dp := { s.dp with buffer := s.dp.buffer.tail }
    intake := { s.intake with queue := s.intake.queue ++ [(⟨p.header, records, .waiting⟩ : IntakeParcel)] } }.logMalformed p.header records

/-- The Intake Unit takes the head parcel of the DP buffer (R34, R35, R37). -/
def State.intakeTake (s : State) (payload : List Byte) : State :=
  let dropped := { s with dp := { s.dp with buffer := s.dp.buffer.tail } }
  match checkParcel payload with
  | .error check => dropped.logException none none none (.parcelMalformed .device check)
  | .ok p =>
    match p.header.kind with
    | .upload =>
      if p.entries.length ≤ Config.intakeRecords - s.intake.used then s.takeUpload p else s
    | kind => dropped.logException none none none (.wrongPort .device kind p.header.source)

/-- INTAKE_TAKE_PARCEL. -/
def execIntakeTakeParcel (s : State) : Host.Outcome State Fault Refusal :=
  .next (match s.dp.buffer with
    | [] => s
    | payload :: _ => s.intakeTake payload)

/-- Whether a record entry is unmarked. -/
def IntakeRecord.unmarked (r : IntakeRecord) : Bool := r.mark.isNone

/-- A parcel the Disposition Unit starts: IN_DISPOSITION, or MARKED when it has no record to take (R41, DEDUCED, assumption 7). -/
def IntakeParcel.started (p : IntakeParcel) : IntakeParcel :=
  { p with condition := if p.records.any IntakeRecord.unmarked then .inDisposition else .marked }

/-- DISPOSITION_START_PARCEL: the WAITING head parcel is started (R41). -/
def execDispositionStartParcel (s : State) : Host.Outcome State Fault Refusal :=
  .next (match s.intake.queue with
    | [] => s
    | p :: rest =>
      if p.condition = .waiting then { s with intake := { s.intake with queue := p.started :: rest } } else s)

/-- A record's bytes as they leave the part, with its mark (R51, R189). -/
def IntakeRecord.forwarded (r : IntakeRecord) : List Byte :=
  match r.mark with
  | some m => withMark r.raw m
  | none => r.raw

/-- A marked parcel as it joins the forward queue (R51). -/
def IntakeParcel.forwarded (p : IntakeParcel) : ForwardParcel := ⟨p.header, p.records.map IntakeRecord.forwarded⟩

/-- FORWARD_QUEUE_ENTRY: a MARKED head parcel enters the forward queue once it has room (R52). -/
def execForwardQueueEntry (s : State) : Host.Outcome State Fault Refusal :=
  .next (match s.intake.queue with
    | [] => s
    | p :: rest =>
      if p.condition = .marked ∧ s.forward.length < Config.forwardParcels then
        { s with intake := { s.intake with queue := rest }, forward := s.forward ++ [p.forwarded] }
      else s)

/-! ### The intercept setting -/

/-- Whether the head parcel of the intake queue is IN_DISPOSITION (R48). -/
def State.inDisposition (s : State) : Bool :=
  match s.intake.queue with
  | [] => false
  | p :: _ => decide (p.condition = .inDisposition)

/-- INTERCEPT's own rule (R48): refused while the clock is UNSET for ON; else the requested value is written, and the effective
value takes it at once unless the head parcel is IN_DISPOSITION and the values differ. -/
def runIntercept (s : State) (value : Bool) : State × Response :=
  if value = true ∧ s.time.clock = .unset then (s, .reply .clockUnset .none)
  else if s.inDisposition = true ∧ s.intake.effective ≠ value then
    ({ s with intake := { s.intake with requested := value } }, .hold .intercept)
  else ({ s with intake := { s.intake with requested := value, effective := value } }, .reply .ok .none)

/-- INTERCEPT. -/
def execIntercept (s : State) : Host.Outcome State Fault Refusal := .next (s.execute 14 readIntercept runIntercept)

/-- A parcel boundary (R49): the effective value takes the requested one and a held INTERCEPT completes. -/
def State.boundary (s : State) : State :=
  { s with intake := { s.intake with effective := s.intake.requested } }.completeHeld .intercept

end Sys2Proof.Machine
end

