-- ==== Sys2Proof/Machine/Disposition.lean ====
section
/-! DEFINITION. RECORD_DISPOSITION (R41 to R47): the next unmarked record of the head parcel is marked whole, by intercept, Card
Index, Block Range Table and ref. -/

namespace Sys2Proof.Machine

/-- The arrival stamp of a record at its disposition under intercept ON: a stamp of 0 gives way to the part time read
then (R38). -/
def effectiveStamp (stamp now : Nat) : Nat := if stamp = 0 then now else stamp

/-- A record from the old card of a case, routed by the case's state (R43). -/
def State.disposeOld (s : State) (c : Nat) (u : UsageRecord) (kind : RecordKind) (stamp : Nat) : State × Mark :=
  let r := s.caseAt c
  match r.state with
  | .collecting | .held | .issued | .lapsed | .collected =>
    s.attach c (arrivalOf u kind stamp r.blockInstant)
  | .closed =>
    if classOf u.deviceTime stamp r.blockInstant = .pre then
      (s.logException (some c) (some r.oldCard) (some u.device) (.strayEvidence u.csn u.deviceTime), .oldClosed)
    else (s, .oldClosed)
  | .cancelled | .free => (s, .clear)

/-- A record from the new card of a case: an ACTION_APPLIED one is a collection, any other NEW_CARD (R44). -/
def State.disposeNew (s : State) (c : Nat) (u : UsageRecord) (kind : RecordKind) : (State × Bool) × Mark :=
  match kind, u.ref, u.mask with
  | .actionApplied, some ref, some mask => s.takeCollection c u.card ref u.amount mask u.device
  | _, _, _ => ((s, false), .newCard)

/-- Whether a ref resolves to a case: its case number names a record that is not FREE, under its instance (R46). -/
def State.resolves (s : State) (ref : Ref) : Bool := s.named ref.caseNo ref.inst

/-- A record of a card that belongs to no case: range-blocked, a foreign action, or clear (R45, R46). -/
def State.disposeOther (s : State) (u : UsageRecord) (kind : RecordKind) : State × Mark :=
  if s.rangeBlocked u.card then (s, .rangeBlocked)
  else
    match kind, u.ref with
    | .actionApplied, some ref =>
      if s.resolves ref then (s, .clear)
      else (s.logException none (some u.card) (some u.device) (.foreignAction ref), .foreignAction)
    | _, _ => (s, .clear)

/-- The disposition of one record (R42 to R46): the part after it, whether room was freed in the Action Queue, and the mark. -/
def State.dispose (s : State) (raw : List Byte) (stamp : Nat) : (State × Bool) × Mark :=
  if s.intake.effective = false then ((s, false), .unchecked)
  else
    let u := usageRecord raw
    let kind := u.kind.getD .purseUse
    match s.lookup u.card with
    | some ⟨_, c, .old⟩ =>
      (((s.disposeOld c u kind (effectiveStamp stamp s.time.now)).1, false),
        (s.disposeOld c u kind (effectiveStamp stamp s.time.now)).2)
    | some ⟨_, c, .new⟩ => s.disposeNew c u kind
    | none => (((s.disposeOther u kind).1, false), (s.disposeOther u kind).2)

/-- Record entries with the first unmarked one marked. -/
def markFirst : List IntakeRecord → Mark → List IntakeRecord
  | [], _ => []
  | r :: l, m => if r.unmarked then { r with mark := some m } :: l else r :: markFirst l m

/-- A parcel after the first unmarked record is marked: MARKED when it was the last (R33, R41). -/
def IntakeParcel.afterMark (p : IntakeParcel) (m : Mark) : IntakeParcel :=
  let records := markFirst p.records m
  { p with
    records := records
    condition := if records.any IntakeRecord.unmarked then .inDisposition else .marked }

/-- The head parcel after its record is marked, and the parcel boundary when that was the last (R41, R49). -/
def State.markHead (s : State) (m : Mark) : State :=
  match s.intake.queue with
  | [] => s
  | p :: rest =>
    let marked := { s with intake := { s.intake with queue := p.afterMark m :: rest } }
    if (p.afterMark m).condition = .marked then marked.boundary else marked

/-- The disposition of a record of the head parcel: its effects and its mark, the boundary, and the service of room it freed,
all together (R41, R122); then a deadline it set to a value already reached expires (R8, R22). -/
def State.disposeHead (s : State) (r : IntakeRecord) : State :=
  let outcome := s.dispose r.raw r.stamp
  (endEvent (outcome.1.1.markHead outcome.2, outcome.1.2)).afterReached s

/-- RECORD_DISPOSITION: the head parcel is IN_DISPOSITION and its next unmarked record is taken (R41). -/
def execRecordDisposition (s : State) : Host.Outcome State Fault Refusal :=
  .next (match s.intake.queue with
    | [] => s
    | p :: _ =>
      if p.condition = .inDisposition then
        match p.records.find? IntakeRecord.unmarked with
        | some r => s.disposeHead r
        | none => s
      else s)

end Sys2Proof.Machine
end

