-- ==== Sys2Proof/Machine/CaseCommands.lean ====
section
/-! DEFINITION. The case commands: OPEN_CASE, CANCEL_CASE, RELEASE_CASE, FORCE_SETTLE, REISSUE, READ_CASE and READ_ARRIVALS
(01 sections 1.5 to 1.9, R74). Each has the rule it runs (`run…`) and the step that executes the next command entry with it
(`exec…`). -/

namespace Sys2Proof.Machine

/-! ### OPEN_CASE -/

/-- The slots of some pass records, in order. -/
def passSlots (passes : List PassRecord) : List PassSlot := passes.map PassRecord.slot

/-- A baseline pass-slot record within range (R10). -/
def PassRecord.inRange (p : PassRecord) : Bool :=
  decide (1 ≤ p.pass.product) && decide (p.pass.product ≤ 65535) && decide (p.pass.firstDay ≤ p.pass.lastDay)
    && (match p.pass.cls with
        | .count => decide (p.pass.rides ≤ 1000)
        | .period => decide (p.pass.rides = 0))

/-- Whether no two records of a list name the same slot. -/
def slotsDistinct : List PassSlot → Bool
  | [] => true
  | s :: l => !l.contains s && slotsDistinct l

/-- The baseline is within range (R10). -/
def OpenArgs.baselineOk (a : OpenArgs) : Bool :=
  decide (a.baselineCsn ≤ Config.maxBaselineCsn)
    && decide (Config.minBalance ≤ a.baselineBalance) && decide (a.baselineBalance ≤ Config.maxBalance)
    && decide (a.passes.length ≤ 4) && slotsDistinct (passSlots a.passes) && a.passes.all PassRecord.inRange

/-- The refusal of OPEN_CASE: the first of the eight conditions that holds, in order (R9). -/
def State.openRefusal (s : State) (a : OpenArgs) : Option Status :=
  if s.time.clock = .unset then some .clockUnset
  else if (s.activeRow a.operator).valid = false then some .noPolicy
  else if a.oldCard = 0 ∨ a.newCard = 0 ∨ a.baselineOk = false then some .badArgument
  else if a.oldCard = a.newCard then some .sameCard
  else if (s.lookup a.oldCard).isSome ∨ (s.lookup a.newCard).isSome then some .cardInCase
  else if s.rangeBlocked a.newCard then some .blockedTarget
  else if s.lowestFree.isNone then some .tableFull
  else if s.admitsOther = false then some .busy
  else none

/-- The block instant: the report time clamped into the interval from now − max backdate days to now (R11). -/
def clampInstant (reportTime now backdateDays : Nat) : Nat := max (now - backdateDays * Config.day) (min reportTime now)

/-- The timing an operator row gives a case at open (R12). -/
def OperatorRow.timing (row : OperatorRow) : Timing :=
  ⟨row.windowHours, row.collectionDays, row.tailDays, row.dayOffset, row.earlySettle⟩

/-- The record OPEN_CASE writes (Table 1-1, "Set at open"; R11, R12, R13). -/
def openedRecord (inst : BitVec 8) (a : OpenArgs) (row : OperatorRow) (now : Nat) : CaseRecord :=
  let instant := clampInstant a.reportTime now row.maxBackdateDays
  { CaseRecord.freeWith (inst + 1) with
    state := .collecting
    oldCard := a.oldCard
    newCard := a.newCard
    operator := a.operator
    hostTag := a.hostTag
    feeWaived := a.feeWaived
    blockInstant := instant
    instantClamped := decide (instant ≠ a.reportTime)
    baselineCsn := a.baselineCsn
    baselineBalance := a.baselineBalance
    baselinePasses := a.passes
    timing := some row.timing
    deadline := some (deadlineAt .windowEnd (instant + row.windowHours * Config.hour)) }

/-- OPEN_CASE taken on a FREE slot: record, index entries, BLOCK entry (R12). -/
def State.openAt (s : State) (c : Nat) (a : OpenArgs) : State :=
  let record := openedRecord (s.caseAt c).inst a (s.activeRow a.operator) s.time.now
  ((s.setCase c record).addCards c a.oldCard a.newCard).enqueue
    (.block (blockRef c record.inst) a.oldCard a.operator record.blockInstant)

/-- OPEN_CASE's own rule (R9 to R12). A window end already reached expires once the case is open, and leaves the reply as it is
(R12, R13). -/
def runOpenCase (s : State) (a : OpenArgs) : State × Response :=
  match s.openRefusal a, s.lowestFree with
  | none, some c =>
    let t := s.openAt c a
    (t.afterReached s, .reply (if (t.caseAt c).instantClamped then .okClamped else .ok) (.opened c (t.caseAt c).inst))
  | none, none => (s, .reply .tableFull .none)
  | some status, _ => (s, .reply status .none)

/-- OPEN_CASE. -/
def execOpenCase (s : State) : Host.Outcome State Fault Refusal := .next (s.execute 1 readOpenCase runOpenCase)

/-! ### CANCEL_CASE -/

/-- Whether anything of a case has been applied: applied above 0 or a slot APPLIED (R24). -/
def CaseRecord.anyApplied (r : CaseRecord) : Bool :=
  decide (r.applied ≠ 0) || allSlots.any (fun s => decide (r.grantStatus.get s = .applied))

/-- Whether CANCEL_CASE is taken (R24). -/
def CaseRecord.cancellable (r : CaseRecord) : Bool :=
  match r.state with
  | .collecting | .held => true
  | .issued | .lapsed => !r.anyApplied
  | .free | .collected | .closed | .cancelled => false

/-- A case record that has become CANCELLED, without a deadline (R24). -/
def CaseRecord.cancelled (r : CaseRecord) : CaseRecord := { r with state := .cancelled, deadline := none }

/-- The effects of CANCEL_CASE (R24): the RESTORE withdrawn, the waiting request removed, an UNBLOCK placed or owed, the
deadline absent, the state CANCELLED; then room that was freed is served (R122), which can start a collection deadline (R8). -/
def State.cancelAt (s : State) (c : Nat) : State :=
  let w := s.withdraw c
  let t := (w.1.dropRequest c).placeUnblock c
  (endEvent (t.setCase c (t.caseAt c).cancelled, w.2)).afterReached s

/-- CANCEL_CASE's rule on a named case (R24). -/
def cancelNamed (s : State) (c : Nat) : State × Response :=
  if (s.caseAt c).cancellable then (s.cancelAt c, .reply .ok .none) else (s, .reply .wrongState .none)

def runCancelCase (s : State) (n : CaseName) : State × Response := s.withCase n cancelNamed

/-- CANCEL_CASE. -/
def execCancelCase (s : State) : Host.Outcome State Fault Refusal := .next (s.execute 2 readCaseName runCancelCase)

/-! ### RELEASE_CASE -/

/-- The effects of RELEASE_CASE (R25): index entries removed, arrival slots returned, the waiting request removed, the record
FREE under its instance. -/
def State.releaseAt (s : State) (c : Nat) : State :=
  let r := s.caseAt c
  { (((s.removeCards c).dropRequest c).setCase c (CaseRecord.freeWith r.inst)) with
    poolFree := s.poolFree + r.arrivals.length }

/-- RELEASE_CASE's rule on a named case: the state first, then owed entries (R25). -/
def releaseNamed (s : State) (c : Nat) : State × Response :=
  let r := s.caseAt c
  if r.state = .closed ∨ r.state = .cancelled then
    if r.owes then (s, .reply .busy .none) else (s.releaseAt c, .reply .ok .none)
  else (s, .reply .wrongState .none)

def runReleaseCase (s : State) (n : CaseName) : State × Response := s.withCase n releaseNamed

/-- RELEASE_CASE. -/
def execReleaseCase (s : State) : Host.Outcome State Fault Refusal := .next (s.execute 3 readCaseName runReleaseCase)

/-! ### FORCE_SETTLE -/

/-- FORCE_SETTLE's rule on a named case: a FORCED request with the clamped basis is placed (R15). -/
def forceNamed (basis : Int) (noPasses : Bool) (s : State) (c : Nat) : State × Response :=
  let r := s.caseAt c
  if r.state = .collecting ∨ r.state = .held then
    if (s.activeRow r.operator).valid then
      (s.placeRequest ⟨c, .forced (clampBalance basis) noPasses⟩ false,
        .reply (if clampBalance basis = basis then .ok else .okClamped) .none)
    else (s, .reply .noPolicy .none)
  else (s, .reply .wrongState .none)

def runForceSettle (s : State) (a : ForceArgs) : State × Response := s.withCase a.name (forceNamed a.basis a.noPasses)

/-- FORCE_SETTLE. -/
def execForceSettle (s : State) : Host.Outcome State Fault Refusal :=
  .next (s.execute 4 readForceSettle runForceSettle)

/-! ### REISSUE -/

/-- REISSUE taken: the case moves to ISSUED and the reconcile step runs there (R20); a deadline it set to a value already reached
expires (R8, R22). -/
def State.reissueAt (s : State) (c : Nat) : State :=
  (endEvent ((s.setCase c { s.caseAt c with state := .issued }).reconcile c false)).afterReached s

/-- REISSUE's rule on a named case (R20). -/
def reissueNamed (s : State) (c : Nat) : State × Response :=
  if (s.caseAt c).state = .lapsed then (s.reissueAt c, .reply .ok .none) else (s, .reply .wrongState .none)

def runReissue (s : State) (n : CaseName) : State × Response := s.withCase n reissueNamed

/-- REISSUE. -/
def execReissue (s : State) : Host.Outcome State Fault Refusal := .next (s.execute 5 readCaseName runReissue)

/-! ### READ_CASE and READ_ARRIVALS -/

/-- READ_CASE's rule on a named case: every field but the arrivals, and their number (R27). -/
def readNamed (s : State) (c : Nat) : State × Response :=
  let r := s.caseAt c
  (s, .reply .ok (.caseRecord c { r with arrivals := [] } r.arrivals.length))

def runReadCase (s : State) (n : CaseName) : State × Response := s.withCase n readNamed

/-- READ_CASE. -/
def execReadCase (s : State) : Host.Outcome State Fault Refusal := .next (s.execute 6 readCaseName runReadCase)

/-- READ_ARRIVALS's rule on a named case: up to 8 arrivals from the start position, with their roles (R74). -/
def arrivalsNamed (start : Nat) (s : State) (c : Nat) : State × Response :=
  let r := s.caseAt c
  if 31 < start then (s, .reply .badArgument .none)
  else
    (s, .reply .ok (.arrivals r.arrivals.length r.changeCount r.pruned start
      (((r.arrivals.drop start).take 8).map (fun a => (a, rolesIn r.arrivals a)))))

def runReadArrivals (s : State) (a : ArrivalsArgs) : State × Response := s.withCase a.name (arrivalsNamed a.start)

/-- READ_ARRIVALS. -/
def execReadArrivals (s : State) : Host.Outcome State Fault Refusal :=
  .next (s.execute 7 readArrivalsArgs runReadArrivals)

end Sys2Proof.Machine
end

