-- ==== Sys2Proof/Machine/Window.lean ====
section
/-! DEFINITION. The table window (09 section 9.4) and the bank switch: SEEK, GET, PUT, PATCH_BEGIN, PATCH_END, SWITCH_POLICY, and
what a write to the standby bank and to the Block Range Table does (07). -/

namespace Sys2Proof.Machine

/-- The cursor advanced by one row; on the last row of its table it stays (R169). -/
def Cursor.advance : Cursor → Cursor
  | .policyStandby r => if r = 63 then .policyStandby r else .policyStandby (r + 1)
  | .policyActive r => if r = 63 then .policyActive r else .policyActive (r + 1)
  | .blockRanges r => if r = 31 then .blockRanges r else .blockRanges (r + 1)
  | .caseDirectory r => if r = 2047 then .caseDirectory r else .caseDirectory (r + 1)

/-- The directory row of a case record (R168). -/
def CaseRecord.directory (r : CaseRecord) : DirectoryRow :=
  ⟨r.state, r.inst, r.oldCard, r.newCard, r.operator, r.hostTag⟩

/-- The content of the row a cursor names, as it stands (R168). -/
def State.rowAt (s : State) : Cursor → RowContent
  | .policyStandby r => .policy (s.standbyRow r)
  | .policyActive r => .policy (s.activeRow r)
  | .blockRanges r => .range s.ranges[r]
  | .caseDirectory r => .directory (s.caseAt r).directory

/-- The part with its window changed. -/
def State.setWindow (s : State) (w : TableWindow) : State := { s with control := { s.control with window := w } }

/-- Whether the window is in patch mode (R173). -/
def State.patching (s : State) : Bool := s.control.window.saved.isSome

/-- The result fields of SEEK, PUT, PATCH_BEGIN and PATCH_END: the cursor as it stands (R169, R191; a refusal
of PATCH_BEGIN or PATCH_END carries it too, DEDUCED, assumption 22). -/
def State.cursorReply (s : State) (status : Status) : Response := .reply status (.cursor s.control.window.cursor)

/-- SEEK's own rule (R170). -/
def runSeek (s : State) (target : Cursor) : State × Response :=
  if s.patching then (s, s.cursorReply .patchActive)
  else
    let t := s.setWindow { s.control.window with cursor := target }
    (t, t.cursorReply .ok)

/-- SEEK. -/
def execSeek (s : State) : Host.Outcome State Fault Refusal := .next (s.execute 8 readSeek runSeek)

/-- GET's own rule: the reply takes the latch as it stands, the latch is loaded from the cursor row, and outside patch mode the
cursor advances (R171). -/
def runGet (s : State) (_ : Unit) : State × Response :=
  let w := s.control.window
  let t := s.setWindow
    { w with
      latch := some ⟨s.rowAt w.cursor, w.cursor⟩
      cursor := if s.patching then w.cursor else w.cursor.advance }
  (t, .reply .ok (.latch w.latch t.control.window.cursor))

/-- GET. -/
def execGet (s : State) : Host.Outcome State Fault Refusal := .next (s.execute 9 readNone runGet)

/-! ### Writes -/

/-- A field's new value: the value sent when it is in range, else the value the row held (R144). -/
def heldField {α : Type} (held : Bool) (old new : α) : α := if held then old else new

/-- A number within a range. -/
def within (lo n hi : Nat) : Bool := decide (lo ≤ n) && decide (n ≤ hi)

/-- Which fields of a PUT to a policy row are out of range, in the order of Table 7-1 (R142, R144). -/
structure HeldFields where
  valid : Bool
  fee : Bool
  purseMax : Bool
  gapPolicy : Bool
  windowHours : Bool
  collectionDays : Bool
  tailDays : Bool
  dayOffset : Bool
  minCarryDays : Bool
  maxBackdateDays : Bool
  earlySettle : Bool
deriving DecidableEq, Repr

/-- The range checks of Table 7-1 (R144). -/
def PolicyValues.heldFields (v : PolicyValues) : HeldFields where
  valid := !within 0 v.valid 1
  fee := !within 0 v.fee 10000
  purseMax := !(decide (100 ≤ v.purseMax) && decide (v.purseMax ≤ 500000))
  gapPolicy := !within 0 v.gapPolicy 1
  windowHours := !within 1 v.windowHours 336
  collectionDays := !within 1 v.collectionDays 90
  tailDays := !within 0 v.tailDays 60
  dayOffset := !within 0 v.dayOffset 86399
  minCarryDays := !within 0 v.minCarryDays 30
  maxBackdateDays := !within 1 v.maxBackdateDays 60
  earlySettle := !within 0 v.earlySettle 1

/-- Whether any field was held. -/
def HeldFields.any (h : HeldFields) : Bool :=
  h.valid || h.fee || h.purseMax || h.gapPolicy || h.windowHours || h.collectionDays || h.tailDays || h.dayOffset
    || h.minCarryDays || h.maxBackdateDays || h.earlySettle

/-- An operator row after a PUT: in-range fields written, the others held, range-held set when one was held (R144). -/
def OperatorRow.written (row : OperatorRow) (v : PolicyValues) : OperatorRow :=
  let h := v.heldFields
  { valid := heldField h.valid row.valid (decide (v.valid = 1))
    fee := heldField h.fee row.fee v.fee
    purseMax := heldField h.purseMax row.purseMax v.purseMax.toNat
    gapPolicy := heldField h.gapPolicy row.gapPolicy (if v.gapPolicy = 1 then .operator else .holder)
    windowHours := heldField h.windowHours row.windowHours v.windowHours
    collectionDays := heldField h.collectionDays row.collectionDays v.collectionDays
    tailDays := heldField h.tailDays row.tailDays v.tailDays
    dayOffset := heldField h.dayOffset row.dayOffset v.dayOffset
    minCarryDays := heldField h.minCarryDays row.minCarryDays v.minCarryDays
    maxBackdateDays := heldField h.maxBackdateDays row.maxBackdateDays v.maxBackdateDays
    earlySettle := heldField h.earlySettle row.earlySettle (decide (v.earlySettle = 1))
    rangeHeld := h.any }

/-- Whether a mask's 24 most significant bits are ones (R151). -/
def maskLeads (mask : CardId) : Bool := decide (mask.toNat / 4294967296 = 16777215)

/-- Whether a PUT to a block range row holds the whole row (R151). -/
def RangeValues.held (v : RangeValues) : Bool :=
  !maskLeads v.mask || decide (63 < v.operator) || !within 0 v.valid 1

/-- A block range row after a PUT (R151). -/
def RangeRow.written (row : RangeRow) (v : RangeValues) : RangeRow :=
  if v.held then { row with rangeHeld := true }
  else ⟨decide (v.valid = 1), v.base, v.mask, Fin.ofNat 64 v.operator, v.reason, false⟩

/-- The status of a write that is taken: OK_CLAMPED when a field or the row was held (R144, R151). -/
def writeStatus (held : Bool) : Status := if held then .okClamped else .ok

/-- The part with its cursor advanced (R169). -/
def State.advanceCursor (s : State) : State :=
  s.setWindow { s.control.window with cursor := s.control.window.cursor.advance }

/-- PUT's own rule (R172): a read-only cursor table is refused, then a table other than the cursor's; else the cursor row is
written and the cursor advances. -/
def runPut (s : State) (a : PutArgs) : State × Response :=
  match s.control.window.cursor, a with
  | .policyActive _, _ => (s, s.cursorReply .readOnly)
  | .caseDirectory _, _ => (s, s.cursorReply .readOnly)
  | .policyStandby r, .policyStandby v =>
    let t := (s.setStandbyRow r ((s.standbyRow r).written v)).advanceCursor
    (t, t.cursorReply (writeStatus v.heldFields.any))
  | .blockRanges r, .blockRanges v =>
    let t := { s with ranges := s.ranges.set r (s.ranges[r].written v) }.advanceCursor
    (t, t.cursorReply (writeStatus v.held))
  | .policyStandby _, _ => (s, s.cursorReply .badArgument)
  | .blockRanges _, _ => (s, s.cursorReply .badArgument)

/-- PUT. -/
def execPut (s : State) : Host.Outcome State Fault Refusal := .next (s.execute 10 readPut runPut)

/-! ### Patch mode -/

/-- PATCH_BEGIN's own rule (R173). -/
def runPatchBegin (s : State) (_ : Unit) : State × Response :=
  if s.patching then (s, s.cursorReply .patchActive)
  else
    let t := s.setWindow { s.control.window with saved := some s.control.window.cursor }
    (t, t.cursorReply .ok)

/-- PATCH_BEGIN. -/
def execPatchBegin (s : State) : Host.Outcome State Fault Refusal := .next (s.execute 11 readNone runPatchBegin)

/-- PATCH_END's own rule (R173). -/
def runPatchEnd (s : State) (_ : Unit) : State × Response :=
  match s.control.window.saved with
  | none => (s, s.cursorReply .notPatching)
  | some saved =>
    let t := s.setWindow { s.control.window with cursor := saved, saved := none }
    (t, t.cursorReply .ok)

/-- PATCH_END. -/
def execPatchEnd (s : State) : Host.Outcome State Fault Refusal := .next (s.execute 12 readNone runPatchEnd)

/-! ### SWITCH_POLICY -/

/-- SWITCH_POLICY's own rule (R147): with no operation in flight the flip is taken at once; else switch-pending is set and the
command holds the Control Unit until the flip. -/
def runSwitchPolicy (s : State) (_ : Unit) : State × Response :=
  if s.settle.inFlight.isNone then (s.flip, .reply .ok .none)
  else ({ s with policy := { s.policy with switchPending := true } }, .hold .switchPolicy)

/-- SWITCH_POLICY. -/
def execSwitchPolicy (s : State) : Host.Outcome State Fault Refusal := .next (s.execute 13 readNone runSwitchPolicy)

end Sys2Proof.Machine
end

