-- ==== Sys2Proof/Machine/Commands.lean ====
section
/-! DEFINITION. The remaining commands of the Control Unit: CONTROL_PARCEL_START, SET_TIME, READ_STATUS, SET_NOTICE_MASK, READ_LOG,
CLEAR_LOG and UNKNOWN_COMMAND (08, 09, 10). -/

namespace Sys2Proof.Machine

/-- CONTROL_PARCEL_START: holding no parcel and no earlier reply, the Control Unit starts the head of the control queue
(R163). -/
def execControlParcelStart (s : State) : Host.Outcome State Fault Refusal :=
  .next (match s.control.phase, s.cp.queue with
    | .idle, _ :: _ => { s with control := { s.control with phase := .executing [] none } }
    | _, _ => s)

/-! ### SET_TIME -/

/-- SET_TIME's own rule (R156): a value below 8,640,000 is refused; any other becomes part time and the clock is SET. -/
def runSetTime (s : State) (value : Nat) : State × Response :=
  if value < Config.minSetTime then (s, .reply .badArgument .none)
  else ({ s with time := ⟨.set, value⟩ }, .reply .ok .none)

/-- SET_TIME. -/
def execSetTime (s : State) : Host.Outcome State Fault Refusal := .next (s.execute 15 readSetTime runSetTime)

/-! ### READ_STATUS -/

/-- The states in the order of their codes (Table 11-6). -/
def allStates : List CaseState := [.free, .collecting, .held, .issued, .lapsed, .collected, .closed, .cancelled]

/-- How many listed cases are in a state. -/
def State.listedIn (s : State) (state : CaseState) : Nat := (s.cases.filter (fun e => decide (e.2.state = state))).length

/-- How many of the 2,048 records are in a state: an unlisted record is FREE. -/
def State.countIn (s : State) (state : CaseState) : Nat :=
  match state with
  | .free => Config.caseCount - (s.cases.filter (fun e => decide (e.2.state ≠ .free))).length
  | st => s.listedIn st

/-- The items of READ_STATUS as they stand (Table 9-3); during the initialization period the case counts, the free slots and the
depth are reported as 0 (R167). -/
def State.statusReport (s : State) : StatusReport :=
  let cleared := decide (s.init = .ready)
  { init := s.init
    clock := s.time.clock
    time := s.time.now
    requested := s.intake.requested
    effective := s.intake.effective
    active := s.policy.active
    switchPending := s.policy.switchPending
    caseCounts := allStates.map (fun st => if cleared then s.countIn st else 0)
    freeSlots := if cleared then s.poolFree else 0
    actionDepth := if cleared then s.actions.depth else 0
    droppedParcels := s.dp.dropped
    droppedControl := s.control.dropped
    lostRecords := s.log.lost
    lostEvents := s.notices.lost
    logValid := s.log.validCount
    logOverflow := s.log.overflow
    caseMasked := s.notices.caseMasked
    logMasked := s.notices.logMasked
    casePending := s.notices.casePending
    logPending := s.notices.logPending
    dpLink := s.dp.link
    cpLink := s.cp.link }

/-- The four counters set to 0 (R175). -/
def State.clearCounters (s : State) : State :=
  { s with
    dp := { s.dp with dropped := 0 }
    control := { s.control with dropped := 0 }
    log := { s.log with lost := 0 }
    notices := { s.notices with lost := 0 } }

/-- READ_STATUS's own rule: the report as it stands, then the counters cleared when asked (R174, R175). -/
def runReadStatus (s : State) (clear : Bool) : State × Response :=
  (if clear then s.clearCounters else s, .reply .ok (.status s.statusReport))

/-- READ_STATUS. -/
def execReadStatus (s : State) : Host.Outcome State Fault Refusal := .next (s.execute 16 readReadStatus runReadStatus)

/-! ### Notices and the log -/

/-- SET_NOTICE_MASK's own rule: both masks are written (R183). -/
def runSetNoticeMask (s : State) (a : MaskArgs) : State × Response :=
  ({ s with
      notices := { s.notices with caseMasked := a.caseMasked, logMasked := a.logMasked }.refreshPending },
    .reply .ok .none)

/-- SET_NOTICE_MASK. -/
def execSetNoticeMask (s : State) : Host.Outcome State Fault Refusal :=
  .next (s.execute 17 readNoticeMask runSetNoticeMask)

/-- Some records from an index upward, counted from 31 round to 0, each with its index (R180). -/
def ExceptionLog.window (l : ExceptionLog) : Nat → Fin 32 → List (Fin 32 × Option LogRecord)
  | 0, _ => []
  | n + 1, i => (i, l.records[i]) :: l.window n (i + 1)

/-- READ_LOG's own rule (R180). -/
def runReadLog (s : State) (start : Fin 32) : State × Response :=
  (s, .reply .ok (.log s.log.writeIndex s.log.overflow s.log.validCount s.log.lost (s.log.window 8 start)))

/-- READ_LOG. -/
def execReadLog (s : State) : Host.Outcome State Fault Refusal := .next (s.execute 18 readReadLog runReadLog)

/-- The log after CLEAR_LOG: one record invalid, or overflow clear (R181). -/
def ExceptionLog.clear (l : ExceptionLog) : ClearArgs → ExceptionLog
  | .record i => { l with records := l.records.set i none }
  | .overflow => { l with overflow := false }

/-- CLEAR_LOG's own rule: LOG pending is cleared when the log is left empty with overflow clear (R181, R183). -/
def runClearLog (s : State) (a : ClearArgs) : State × Response :=
  let after := s.log.clear a
  ({ s with
      log := after
      notices :=
        { s.notices with logPending := s.notices.logPending && !(after.isEmpty && !after.overflow) } },
    .reply .ok .none)

/-- CLEAR_LOG. -/
def execClearLog (s : State) : Host.Outcome State Fault Refusal := .next (s.execute 19 readClearLog runClearLog)

/-- UNKNOWN_COMMAND: the next entry's code is not one of the twenty; its reply entry carries the code as received and no result
fields (R165). -/
def execUnknownCommand (s : State) : Host.Outcome State Fault Refusal :=
  .next (match s.nextEntry with
    | none => s
    | some entry =>
      if knownCode (entryCode entry) then s else s.writeReply ⟨entryCode entry, .unknownCommand, .none⟩)

/-! ### NOTICE_BUILD -/

/-- Whether the Notice Unit may put a log summary in a notice (R184). -/
def NoticeUnit.wantsSummary (n : NoticeUnit) : Bool := !n.logMasked && n.logPending

/-- Whether the Notice Unit may put events in a notice (R184). -/
def NoticeUnit.wantsEvents (n : NoticeUnit) : Bool := !n.caseMasked && !n.untaken.isEmpty

/-- The log summary as it stands (R184). -/
def ExceptionLog.summary (l : ExceptionLog) : LogSummary := ⟨l.validCount, l.overflow, l.firstValid⟩

/-- How many events the notice carries at most: what fits in the 16 entries beside a summary (R184). -/
def NoticeUnit.eventRoom (n : NoticeUnit) : Nat :=
  if n.caseMasked then 0 else if n.wantsSummary then Config.noticeEntries - 1 else Config.noticeEntries

/-- The unit after it builds a notice parcel (R184). -/
def NoticeUnit.build (n : NoticeUnit) (l : ExceptionLog) : NoticeUnit :=
  { n with
    parcel := some (if n.wantsSummary then some l.summary else none)
    logPending := n.logPending && !n.wantsSummary
    taken := n.taken ++ n.untaken.take n.eventRoom
    untaken := n.untaken.drop n.eventRoom }.refreshPending

/-- NOTICE_BUILD: holding no notice parcel, the Notice Unit builds one (R184). -/
def execNoticeBuild (s : State) : Host.Outcome State Fault Refusal :=
  .next (if s.notices.parcel.isNone && (s.notices.wantsSummary || s.notices.wantsEvents) then
    { s with notices := s.notices.build s.log } else s)

end Sys2Proof.Machine
end

