-- ==== Sys2Proof/Machine/TimeBase.lean ====
section
/-! DEFINITION. The Time Base and the deadline expiries (R8, R13, R18, R23, R155), and the steps of the Settlement Unit. -/

namespace Sys2Proof.Machine

/-- PART_TIME_ADVANCE: while the clock is SET, part time advances by one; at 4,294,967,295 it holds (R155). -/
def execPartTimeAdvance (s : State) : Host.Outcome State Fault Refusal :=
  .next (match s.time.clock with
    | .set => if s.time.now < Config.maxTime then { s with time := { s.time with now := s.time.now + 1 } } else s
    | .unset => s)

/-- WINDOW_END_EXPIRY (R13). -/
def execWindowEndExpiry (s : State) : Host.Outcome State Fault Refusal :=
  .next (match s.dueOf .windowEnd with
    | some (c, r) => s.windowExpires c r
    | none => s)

/-- COLLECTION_DEADLINE_EXPIRY (R18). -/
def execCollectionDeadlineExpiry (s : State) : Host.Outcome State Fault Refusal :=
  .next (match s.dueOf .collection with
    | some (c, r) => (s.collectionExpires c r).afterReached s
    | none => s)

/-- TAIL_END_EXPIRY (R23). -/
def execTailEndExpiry (s : State) : Host.Outcome State Fault Refusal :=
  .next (match s.dueOf .tailEnd with
    | some (c, r) => s.tailExpires c r
    | none => s)

/-- SETTLE_OPERATION_START (R78). -/
def execSettleOperationStart (s : State) : Host.Outcome State Fault Refusal := .next s.startOperation

/-- SETTLEMENT_COMPLETION (R79). -/
def execSettlementCompletion (s : State) : Host.Outcome State Fault Refusal := .next s.completeOperation

end Sys2Proof.Machine
end

