-- ==== Sys2Proof/Machine/Frames.lean ====
section
/-! DEFINITION. What leaves the part as bytes (11): action entries, reply entries, notice entries, their parcels, and the frames on
the two transmit pairs. The frames are functions of State: what is being sent, and its content (DESIGN CHOICE, assumption 26). -/

namespace Sys2Proof.Machine

/-! ### Fields (Table 11-6) -/

/-- A card ID, base or mask: 7 bytes. -/
def cardBytes (c : CardId) : List Byte := beBytes 7 c.toNat

/-- A ref, 4 bytes (R190). -/
def refBytes (r : Ref) : List Byte := beBytes 4 r.value

/-- An optional field: a presence byte, then its bytes, which are 0 when absent (R191). -/
def optionalBytes {α : Type} (width : Nat) (enc : α → List Byte) (o : Option α) : List Byte :=
  match o with
  | some a => 1 :: enc a
  | none => 0 :: List.replicate width 0

/-- A list: a 1-byte count, then its members (R191). -/
def listBytes {α : Type} (enc : α → List Byte) (l : List α) : List Byte := BitVec.ofNat 8 l.length :: l.flatMap enc

/-- An entry preceded by its 2-byte length, which counts the whole entry (R188). -/
def withLength (bs : List Byte) : List Byte := beBytes 2 (bs.length + 2) ++ bs

/-- UP or ON or SET as 1 (Table 11-6). -/
def LinkState.byte (l : LinkState) : Byte := flagByte (decide (l = .up))

/-- A grant of 10 bytes (R190). -/
def Grant.bytes (g : Grant) : List Byte :=
  let slotByte : Byte := BitVec.ofNat 8 g.slot.val
  match g.form with
  | .dated first last => [slotByte, 1] ++ beBytes 2 g.product ++ [0, 0] ++ beBytes 2 first ++ beBytes 2 last
  | .duration days => [slotByte, 2] ++ beBytes 2 g.product ++ [0, 0] ++ beBytes 2 days ++ beBytes 2 0
  | .rides rides last => [slotByte, 3] ++ beBytes 2 g.product ++ [1, 0] ++ beBytes 2 rides ++ beBytes 2 last

/-! ### Action entries (R190) -/

/-- An action entry without its length: kind, grant count, card, ref, kind-specific bytes (Table 11-4). -/
def ActionEntry.body : ActionEntry → List Byte
  | .block ref card op instant =>
    [1, 0] ++ cardBytes card ++ refBytes ref ++ [BitVec.ofNat 8 op.val] ++ beBytes 4 instant
  | .unblock ref card => [2, 0] ++ cardBytes card ++ refBytes ref
  | .restore ref card credit grants =>
    [3, BitVec.ofNat 8 grants.length] ++ cardBytes card ++ refBytes ref ++ intBytes credit ++ grants.flatMap Grant.bytes
  | .withdraw ref card => [4, 0] ++ cardBytes card ++ refBytes ref

/-- An action entry (Table 11-4). -/
def ActionEntry.bytes (e : ActionEntry) : List Byte := withLength e.body

/-! ### Parcels and frames (R187, R188) -/

/-- A parcel header of 8 bytes (Table 11-1). -/
def Header.bytes (h : Header) : List Byte :=
  [h.kind.code, 1] ++ beBytes 3 h.source.toNat ++ beBytes 2 h.seq.toNat ++ [h.count]

/-- A parcel: its header and its entries. -/
def parcelOf (h : Header) (entries : List (List Byte)) : List Byte := h.bytes ++ entries.flatten

/-- A frame the part sends: destination, source, type and payload (R187). -/
structure TxFrame where
  destination : BitVec 48
  source : BitVec 48
  etherType : BitVec 16
  payload : List Byte
deriving DecidableEq, Repr

/-- The source address of a port (R187). -/
def portAddress : Port → BitVec 48
  | .device => 0x02565A000001
  | .clearing => 0x02565A000002

/-- The frame of a parcel: its payload opens with the parcel length and is padded with zero bytes to 46 bytes (R187). -/
def frameOf (port : Port) (parcel : List Byte) : TxFrame :=
  ⟨0xFFFFFFFFFFFF, portAddress port, 0x88B5, padTo Config.minPayload (beBytes 2 parcel.length ++ parcel)⟩

/-! ### Case fields in replies -/

/-- A pass state of 9 bytes (R191). -/
def PassState.bytes (p : PassState) : List Byte :=
  beBytes 2 p.product ++ [p.cls.code] ++ beBytes 2 p.firstDay ++ beBytes 2 p.lastDay ++ beBytes 2 p.rides

/-- A pass-slot record of 10 bytes (R191). -/
def PassRecord.bytes (p : PassRecord) : List Byte := BitVec.ofNat 8 p.slot.val :: p.pass.bytes

/-- Captured timing: window hours, collection days, tail days, day offset, early settle (R191). -/
def Timing.bytes (t : Timing) : List Byte :=
  beBytes 2 t.windowHours ++ beBytes 1 t.collectionDays ++ beBytes 1 t.tailDays ++ beBytes 4 t.dayOffset
    ++ [flagByte t.earlySettle]

/-- Captured money: fee, purse maximum, gap policy, min carry days (R191). -/
def MoneyTerms.bytes (m : MoneyTerms) : List Byte :=
  beBytes 2 m.fee ++ beBytes 4 m.purseMax ++ [m.gapPolicy.code] ++ beBytes 1 m.minCarryDays

/-- A result: B, result status, T, S, X (R191). -/
def Result.bytes (r : Result) : List Byte :=
  intBytes r.basis ++ [r.status.code] ++ intBytes r.target ++ intBytes r.shortfall ++ intBytes r.excess

/-- The outstanding action: generation, credit, list of grants (R191). -/
def Outstanding.bytes (o : Outstanding) : List Byte :=
  beBytes 2 o.generation ++ intBytes o.credit ++ listBytes Grant.bytes o.grants

/-- The owed entries: a list of action kind and generation (R191). No rule orders it: the WITHDRAW entries stand in ascending
generation, then the UNBLOCK (DESIGN CHOICE, assumption 28). -/
def Owed.bytes (o : Owed) : List Byte :=
  listBytes (fun e => e) (o.withdraws.map (fun g => (4 : Byte) :: beBytes 2 g)
    ++ (if o.unblock then [(2 : Byte) :: beBytes 2 0] else []))

/-- A deadline: kind and part time (R191). -/
def Deadline.bytes (d : Deadline) : List Byte := d.kind.code :: beBytes 4 d.due

/-- The coverage set, whole: bit n of byte k is CSN baseline + 1 + 8k + n (Table 11-6). -/
def coverageBytes (c : BitVec 256) : List Byte := (List.range 32).map (fun k => BitVec.ofNat 8 (c.toNat / 256 ^ k))

/-- The four grant statuses (Table 11-6). -/
def SlotStatuses.bytes (t : SlotStatuses) : List Byte := [t.s0.code, t.s1.code, t.s2.code, t.s3.code]

/-- The fields of Table 1-1 in the table's order, with the arrival list given by its count (R27, R191, DEDUCED, assumption 14). -/
def caseBytes (c : Nat) (r : CaseRecord) (arrivals : Nat) : List Byte :=
  beBytes 2 c ++ beBytes 1 r.inst.toNat ++ [r.state.code] ++ cardBytes r.oldCard ++ cardBytes r.newCard
    ++ [BitVec.ofNat 8 r.operator.val] ++ beBytes 4 r.hostTag.toNat ++ [flagByte r.feeWaived]
    ++ beBytes 4 r.blockInstant ++ [flagByte r.instantClamped] ++ beBytes 4 r.baselineCsn
    ++ intBytes r.baselineBalance ++ listBytes PassRecord.bytes r.baselinePasses
    ++ ((r.timing.map Timing.bytes).getD (List.replicate 9 0))
    ++ optionalBytes 8 MoneyTerms.bytes r.money
    ++ beBytes 1 arrivals ++ coverageBytes r.coverage ++ beBytes 1 r.pruned ++ beBytes 2 r.changeCount.toNat
    ++ beBytes 2 r.flags.bits ++ optionalBytes 4 (beBytes 4) r.lockCsn ++ optionalBytes 17 Result.bytes r.result
    ++ listBytes Grant.bytes r.wanted ++ r.grantStatus.bytes ++ intBytes r.applied ++ intBytes r.unpaid
    ++ intBytes r.overpaid ++ beBytes 2 r.generation ++ optionalBytes 7 Outstanding.bytes r.outstanding
    ++ r.owed.bytes ++ optionalBytes 5 Deadline.bytes r.deadline ++ beBytes 1 r.holdReasons.bits

/-- The roles byte: bit 0 anchor, bits 1 to 4 protecting slots 0 to 3, bit 5 p (R191). -/
def ArrivalRoles.bits (r : ArrivalRoles) : Nat :=
  bitsNat ([r.anchor] ++ allSlots.map (fun s => r.slots.contains s) ++ [r.p])

/-- The presence byte of an arrival: bit 0 slot, bit 1 pass state after, bit 2 ref (R191). -/
def Arrival.presenceBits (a : Arrival) : Nat := bitsNat [a.slot.isSome, a.passAfter.isSome, a.ref.isSome]

/-- An arrival in a READ_ARRIVALS reply, 42 bytes (R191). -/
def arrivalBytes (item : Arrival × ArrivalRoles) : List Byte :=
  let a := item.1
  beBytes 4 a.csn ++ [a.kind.code] ++ beBytes 4 a.deviceTime ++ beBytes 4 a.stamp ++ beBytes 3 a.device.toNat
    ++ [BitVec.ofNat 8 a.operator.val] ++ intBytes a.amount ++ intBytes a.balanceAfter ++ beBytes 1 a.presenceBits
    ++ ((a.slot.map (fun s => beBytes 1 s.val)).getD [0])
    ++ ((a.passAfter.map PassState.bytes).getD (List.replicate 9 0))
    ++ ((a.ref.map refBytes).getD (List.replicate 4 0))
    ++ [a.cls.code] ++ beBytes 1 item.2.bits

/-! ### The table window in replies -/

/-- The table code of a cursor (Table 11-6). -/
def Cursor.table : Cursor → Nat
  | .policyStandby _ => 0
  | .policyActive _ => 1
  | .blockRanges _ => 2
  | .caseDirectory _ => 3

/-- The row a cursor names. -/
def Cursor.row : Cursor → Nat
  | .policyStandby r => r.val
  | .policyActive r => r.val
  | .blockRanges r => r.val
  | .caseDirectory r => r.val

/-- A cursor: table and row (R169, Table 11-6). -/
def Cursor.bytes (c : Cursor) : List Byte := beBytes 1 c.table ++ beBytes 2 c.row

/-- An operator row: the fields of Table 7-1 in order, range-held last (R171). -/
def OperatorRow.bytes (r : OperatorRow) : List Byte :=
  [flagByte r.valid] ++ beBytes 2 r.fee ++ beBytes 4 r.purseMax ++ [r.gapPolicy.code] ++ beBytes 2 r.windowHours
    ++ beBytes 1 r.collectionDays ++ beBytes 1 r.tailDays ++ beBytes 4 r.dayOffset ++ beBytes 1 r.minCarryDays
    ++ beBytes 1 r.maxBackdateDays ++ [flagByte r.earlySettle, flagByte r.rangeHeld]

/-- A block range row: the fields of Table 7-3 in order (R171). -/
def RangeRow.bytes (r : RangeRow) : List Byte :=
  [flagByte r.valid] ++ cardBytes r.base ++ cardBytes r.mask ++ [BitVec.ofNat 8 r.operator.val, r.reason,
    flagByte r.rangeHeld]

/-- A CASE_DIRECTORY row: state, instance, old card, new card, operator, host tag (R191). -/
def DirectoryRow.bytes (r : DirectoryRow) : List Byte :=
  [r.state.code] ++ beBytes 1 r.inst.toNat ++ cardBytes r.oldCard ++ cardBytes r.newCard
    ++ [BitVec.ofNat 8 r.operator.val] ++ beBytes 4 r.hostTag.toNat

/-- The content of a window row. -/
def RowContent.bytes : RowContent → List Byte
  | .policy r => r.bytes
  | .range r => r.bytes
  | .directory r => r.bytes

/-- The latch of a GET reply: presence, row content, origin; absent, zero bytes whose number is a free value (R171, R191,
DESIGN CHOICE, assumption 11). -/
def latchBytes (l : Option Latch) : List Byte :=
  optionalBytes Config.absentLatchWidth.val (fun l => l.content.bytes ++ l.origin.bytes) l

/-! ### Exception records in replies (Tables 10-1, 10-2, 11-6) -/

/-- The exception kind codes, in the order of Table 10-2 (Table 11-6). -/
def ExceptionDetail.code : ExceptionDetail → Byte
  | .parcelMalformed _ _ => 1
  | .recordsMalformed _ _ _ _ => 2
  | .wrongPort _ _ _ => 3
  | .parcelDropped _ _ => 4
  | .controlDropped _ _ => 5
  | .recordConflict _ _ => 6
  | .poolExhausted _ _ => 7
  | .strayEvidence _ _ => 8
  | .foreignAction _ => 9
  | .staleCollection _ _ => 10
  | .appliedMismatch _ _ _ _ => 11

/-- The values of a detail, in the order of Table 10-2, before padding. The mask of APPLIED_MISMATCH is one byte when R132 logs it,
with no presence byte, and nothing otherwise (DESIGN CHOICE, assumption 30). -/
def ExceptionDetail.values : ExceptionDetail → List Byte
  | .parcelMalformed port check => [portCode port, check.code]
  | .recordsMalformed source seq count first =>
    beBytes 3 source.toNat ++ beBytes 2 seq.toNat ++ beBytes 1 count ++ beBytes 1 first
  | .wrongPort port kind source => [portCode port, kind.code] ++ beBytes 3 source.toNat
  | .parcelDropped source seq => beBytes 3 source.toNat ++ beBytes 2 seq.toNat
  | .controlDropped source seq => beBytes 3 source.toNat ++ beBytes 2 seq.toNat
  | .recordConflict csn field => beBytes 4 csn ++ [field.code]
  | .poolExhausted csn cls => beBytes 4 csn ++ [cls.code]
  | .strayEvidence csn deviceTime => beBytes 4 csn ++ beBytes 4 deviceTime
  | .foreignAction ref => refBytes ref
  | .staleCollection generation counted => beBytes 2 generation ++ intBytes counted
  | .appliedMismatch generation credit counted mask =>
    beBytes 2 generation ++ intBytes credit ++ intBytes counted ++ ((mask.map (fun m => beBytes 1 m.toNat)).getD [])

/-- A detail of 12 bytes, its unused bytes 0 (R191). -/
def ExceptionDetail.bytes (d : ExceptionDetail) : List Byte := padTo 12 d.values

/-- A READ_LOG record: index, valid, and for a valid record its fields (R180, R191, DESIGN CHOICE, assumption 13). -/
def logRecordBytes (item : Fin 32 × Option LogRecord) : List Byte :=
  match item.2 with
  | none => beBytes 1 item.1.val ++ [0]
  | some r =>
    beBytes 1 item.1.val ++ [1, r.detail.code] ++ optionalBytes 2 (beBytes 2) r.caseNo ++ optionalBytes 7 cardBytes r.card
      ++ optionalBytes 3 (fun d => beBytes 3 d.toNat) r.device ++ beBytes 4 r.time ++ r.detail.bytes

/-! ### READ_STATUS (Table 9-3) -/

/-- The items of a status report in the table's order (R174, R191, DEDUCED, assumption 15). -/
def StatusReport.bytes (r : StatusReport) : List Byte :=
  [flagByte (decide (r.init = .ready)), flagByte (decide (r.clock = .set))] ++ beBytes 4 r.time
    ++ [flagByte r.requested, flagByte r.effective, flagByte (decide (r.active = .b)), flagByte r.switchPending]
    ++ r.caseCounts.flatMap (beBytes 2) ++ beBytes 2 r.freeSlots ++ beBytes 2 r.actionDepth
    ++ beBytes 2 r.droppedParcels ++ beBytes 2 r.droppedControl ++ beBytes 2 r.lostRecords ++ beBytes 2 r.lostEvents
    ++ beBytes 1 r.logValid
    ++ [flagByte r.logOverflow, flagByte r.caseMasked, flagByte r.logMasked, flagByte r.casePending,
      flagByte r.logPending, r.dpLink.byte, r.cpLink.byte]

/-! ### Reply entries and parcels (R164, R191) -/

/-- The result fields of a reply entry. -/
def ReplyResult.bytes : ReplyResult → List Byte
  | .none => []
  | .opened c inst => beBytes 2 c ++ beBytes 1 inst.toNat
  | .caseRecord c r n => caseBytes c r n
  | .arrivals total changeCount pruned start items =>
    beBytes 1 total ++ beBytes 2 changeCount.toNat ++ beBytes 1 pruned ++ beBytes 1 start ++ listBytes arrivalBytes items
  | .cursor c => c.bytes
  | .latch l c => latchBytes l ++ c.bytes
  | .status report => report.bytes
  | .log writeIndex overflow valid lost records =>
    beBytes 1 writeIndex.val ++ [flagByte overflow] ++ beBytes 1 valid ++ beBytes 2 lost ++ records.flatMap logRecordBytes

/-- A reply entry: length, code as received, status, result fields (R191). -/
def ReplyEntry.bytes (e : ReplyEntry) : List Byte := withLength ([e.code, e.status.code] ++ e.result.bytes)

/-- The reply parcel of a control parcel: source ID, sequence and entry count copied (R164). -/
def replyParcel (p : ControlParcel) (replies : List ReplyEntry) : List Byte :=
  parcelOf { p.header with kind := .reply } (replies.map ReplyEntry.bytes)

/-! ### Notice entries and parcels (R184, R192) -/

/-- The event kind codes (R192). -/
def EventDetail.code : EventDetail → Byte
  | .settled _ _ => 1
  | .held _ => 2
  | .adjusted _ => 3
  | .collected _ => 4
  | .lapsed _ => 5
  | .closed _ => 6

/-- The values of an event's detail (R192). -/
def EventDetail.values : EventDetail → List Byte
  | .settled status target => status.code :: intBytes target
  | .held reasons => beBytes 1 reasons.bits
  | .adjusted change => intBytes change
  | .collected applied => intBytes applied
  | .lapsed generation => beBytes 2 generation
  | .closed overpaid => intBytes overpaid

/-- A case event entry, 23 bytes (R192). -/
def CaseEvent.bytes (e : CaseEvent) : List Byte :=
  withLength ([2, e.detail.code] ++ beBytes 2 e.caseNo ++ beBytes 1 e.inst.toNat ++ beBytes 4 e.hostTag.toNat
    ++ beBytes 4 e.time ++ padTo 8 e.detail.values)

/-- A log summary entry, 6 bytes; the first valid index is 255 when the log is empty (R192). -/
def LogSummary.bytes (l : LogSummary) : List Byte :=
  withLength ([1] ++ beBytes 1 l.valid ++ [flagByte l.overflow] ++ beBytes 1 ((l.first.map Fin.val).getD 255))

/-- The entries of the notice parcel held: its summary, if any, then the taken events (R184). -/
def NoticeUnit.entries (n : NoticeUnit) (summary : Option LogSummary) : List (List Byte) :=
  (summary.map LogSummary.bytes).toList ++ n.taken.map CaseEvent.bytes

/-- The notice parcel (R184, R188). -/
def NoticeUnit.parcelBytes (n : NoticeUnit) (summary : Option LogSummary) : List Byte :=
  parcelOf ⟨.notice, 0, n.seq, BitVec.ofNat 8 (n.entries summary).length⟩ (n.entries summary)

/-- The action parcel of the taken entries (R124, R188). -/
def ActionUnit.parcelBytes (a : ActionUnit) : List Byte :=
  parcelOf ⟨.action, 0, a.seq, BitVec.ofNat 8 a.taken.length⟩ (a.taken.map ActionEntry.bytes)

/-! ### The frames on the wires -/

/-- The parcel of a source of the CP output, as it stands. -/
def State.sourceParcel (s : State) : CpSource → Option (List Byte)
  | .reply =>
    match s.control.phase, s.headParcel with
    | .offering replies, some p => some (replyParcel p replies)
    | _, _ => none
  | .notice => s.notices.parcel.map s.notices.parcelBytes
  | .forward => s.forward.head?.map (fun f => parcelOf f.header f.records)

/-- The frame being sent on the Clearing Port, if any (R54, R187). -/
def State.clearingFrame (s : State) : Option TxFrame :=
  (s.cp.sending.bind s.sourceParcel).map (frameOf .clearing)

/-- The frame being sent on the Device Port, if any (R124, R187). -/
def State.deviceFrame (s : State) : Option TxFrame :=
  if s.actions.taken.isEmpty then none else some (frameOf .device s.actions.parcelBytes)

end Sys2Proof.Machine
end

