-- ==== Sys2Proof/Machine/Dispatch.lean ====
section
/-! DEFINITION. One arm for each row of spec/opcode_table.json: the command's effect on everything but the queue of waiting
commands. -/

namespace Sys2Proof.Machine

def exec (i : Instr) (s : State) : Host.Outcome State Fault Refusal :=
  match i with
  | .hardReset => Sys2Proof.Machine.execHardReset s
  | .initializationEnd => Sys2Proof.Machine.execInitializationEnd s
  | .linkDown port => Sys2Proof.Machine.execLinkDown port s
  | .linkUp port => Sys2Proof.Machine.execLinkUp port s
  | .dpParcelArrival frame => Sys2Proof.Machine.execDpParcelArrival frame s
  | .cpParcelArrival frame => Sys2Proof.Machine.execCpParcelArrival frame s
  | .intakeTakeParcel => Sys2Proof.Machine.execIntakeTakeParcel s
  | .dispositionStartParcel => Sys2Proof.Machine.execDispositionStartParcel s
  | .recordDisposition => Sys2Proof.Machine.execRecordDisposition s
  | .forwardQueueEntry => Sys2Proof.Machine.execForwardQueueEntry s
  | .cpOutputGrant => Sys2Proof.Machine.execCpOutputGrant s
  | .cpSendComplete => Sys2Proof.Machine.execCpSendComplete s
  | .controlParcelStart => Sys2Proof.Machine.execControlParcelStart s
  | .openCase => Sys2Proof.Machine.execOpenCase s
  | .cancelCase => Sys2Proof.Machine.execCancelCase s
  | .releaseCase => Sys2Proof.Machine.execReleaseCase s
  | .forceSettle => Sys2Proof.Machine.execForceSettle s
  | .reissue => Sys2Proof.Machine.execReissue s
  | .readCase => Sys2Proof.Machine.execReadCase s
  | .readArrivals => Sys2Proof.Machine.execReadArrivals s
  | .seek => Sys2Proof.Machine.execSeek s
  | .get => Sys2Proof.Machine.execGet s
  | .put => Sys2Proof.Machine.execPut s
  | .patchBegin => Sys2Proof.Machine.execPatchBegin s
  | .patchEnd => Sys2Proof.Machine.execPatchEnd s
  | .switchPolicy => Sys2Proof.Machine.execSwitchPolicy s
  | .intercept => Sys2Proof.Machine.execIntercept s
  | .setTime => Sys2Proof.Machine.execSetTime s
  | .readStatus => Sys2Proof.Machine.execReadStatus s
  | .setNoticeMask => Sys2Proof.Machine.execSetNoticeMask s
  | .readLog => Sys2Proof.Machine.execReadLog s
  | .clearLog => Sys2Proof.Machine.execClearLog s
  | .softReset => Sys2Proof.Machine.execSoftReset s
  | .partTimeAdvance => Sys2Proof.Machine.execPartTimeAdvance s
  | .windowEndExpiry => Sys2Proof.Machine.execWindowEndExpiry s
  | .collectionDeadlineExpiry => Sys2Proof.Machine.execCollectionDeadlineExpiry s
  | .tailEndExpiry => Sys2Proof.Machine.execTailEndExpiry s
  | .settleOperationStart => Sys2Proof.Machine.execSettleOperationStart s
  | .settlementCompletion => Sys2Proof.Machine.execSettlementCompletion s
  | .actionParcelStart => Sys2Proof.Machine.execActionParcelStart s
  | .actionParcelSent => Sys2Proof.Machine.execActionParcelSent s
  | .noticeBuild => Sys2Proof.Machine.execNoticeBuild s
  | .unknownCommand => Sys2Proof.Machine.execUnknownCommand s

end Sys2Proof.Machine
end

