-- ==== Sys2Proof/Machine/Step.lean ====
section
/-! DEFINITION. One step of the block: it takes the command at the front of the queue and runs it; with none waiting it idles. -/

namespace Sys2Proof.Machine

/-- One step: the front command runs on the part with the queue's rest; on an empty queue the part idles (DESIGN CHOICE,
assumption 3). -/
def step (s : State) : Host.Outcome State Fault Refusal :=
  match s.pending with
  | [] => .next s
  | i :: rest => exec i { s with pending := rest }

/-- The part with the command a word spells put at the front of its queue; unchanged where the word spells none (DESIGN CHOICE,
assumption 4: the table gives its rows no bits). -/
def State.withFetchWord (s : State) (nbits w : Nat) : State :=
  match decodeTableWord nbits w with
  | some i => { s with pending := i :: s.pending }
  | none => s

end Sys2Proof.Machine
end

