-- ==== Sys2Proof/Safety.lean ====
section
/-! DEFINITION. What counts as a safe state of the part: the capacities, ranges and agreements that the manual gives its tables,
queues and records. Each is a predicate on State; that every step keeps it is stated among the obligations. -/

namespace Sys2Proof.Machine

/-! ### Queues and counters -/

/-- The queues stay within the capacities the manual gives them, events are taken only into a notice parcel held, and no settle
request shares its case with another (R30, R51, R37, R162, R119, R124, R182, R184, R75). -/
def State.queuesOk (s : State) : Prop :=
  s.dp.buffer.length ≤ 8 ∧ s.cp.queue.length ≤ 8 ∧ s.forward.length ≤ 16 ∧ s.intake.used ≤ 512
    ∧ s.actions.taken.length ≤ 16 ∧ s.actions.depth ≤ 256
    ∧ s.notices.taken.length ≤ 16 ∧ s.notices.taken.length + s.notices.untaken.length ≤ 64
    ∧ (s.notices.parcel = none → s.notices.taken = [])
    ∧ (s.settle.fifo.map SettleRequest.caseNo).Nodup

/-- The four counters are counts of 0..65,535 (R175). -/
def State.countersOk (s : State) : Prop :=
  s.dp.dropped ≤ 65535 ∧ s.control.dropped ≤ 65535 ∧ s.log.lost ≤ 65535 ∧ s.notices.lost ≤ 65535

/-- Part time is a count of 0..4,294,967,295, and reads 0 while the clock is UNSET (R154). -/
def State.timeOk (s : State) : Prop := s.time.now ≤ 4294967295 ∧ (s.time.clock = .unset → s.time.now = 0)

/-! ### Policy and block ranges -/

/-- Every field of an operator row holds a value of its range (Table 7-1). -/
def OperatorRow.inRange (r : OperatorRow) : Prop :=
  r.fee ≤ 10000 ∧ 100 ≤ r.purseMax ∧ r.purseMax ≤ 500000 ∧ 1 ≤ r.windowHours ∧ r.windowHours ≤ 336
    ∧ 1 ≤ r.collectionDays ∧ r.collectionDays ≤ 90 ∧ r.tailDays ≤ 60 ∧ r.dayOffset ≤ 86399
    ∧ r.minCarryDays ≤ 30 ∧ 1 ≤ r.maxBackdateDays ∧ r.maxBackdateDays ≤ 60

/-- Every row of both banks is in range (R142). -/
def State.policyOk (s : State) : Prop :=
  (∀ op : Operator, s.policy.bankA[op].inRange) ∧ ∀ op : Operator, s.policy.bankB[op].inRange

/-- Every block range row's mask has its 24 most significant bits set (R151). -/
def State.rangesOk (s : State) : Prop := ∀ i : Fin 32, maskLeads s.ranges[i].mask = true

/-! ### The case records -/

/-- Whether a deadline belongs to a case state (Table 1-3, R8). -/
def DeadlineKind.belongsTo : DeadlineKind → CaseState → Prop
  | .windowEnd, st => st = .collecting
  | .collection, st => st = .issued
  | .tailEnd, st => st = .collected

/-- What holds of a case record at every moment between two steps: a FREE record is the hard-reset record under its instance
(R1, R25); the running deadline is one of its state, at a part time (R8, R159); an outstanding action exists only in ISSUED,
under the last generation used (R117, R130); only an outstanding action can be owed (R121); generations are 0..8,191, none
used while COLLECTING (R117, R130); the lock CSN is present with CARD_LOCKED (R72); totals, the pruned count and the target
lie in their ranges (Table 1-1, R90). -/
structure CaseRecord.lifeOk (r : CaseRecord) : Prop where
  free : r.state = .free → r = CaseRecord.freeWith r.inst
  deadline : ∀ d, r.deadline = some d → d.kind.belongsTo r.state ∧ d.due ≤ 4294967295
  outstanding : ∀ o, r.outstanding = some o → r.state = .issued ∧ o.generation = r.generation ∧ 1 ≤ o.generation
  owed : r.flags.issueOwed = true → r.outstanding.isSome = true
  generation : r.generation ≤ 8191
  collecting : r.state = .collecting → r.generation = 0
  lock : r.flags.cardLocked = r.lockCsn.isSome
  applied : 0 ≤ r.applied ∧ r.applied ≤ 2000000
  unpaid : 0 ≤ r.unpaid ∧ r.unpaid ≤ 2000000
  overpaid : 0 ≤ r.overpaid ∧ r.overpaid ≤ 2000000
  pruned : r.pruned ≤ 255
  target : ∀ res, r.result = some res → 0 ≤ res.target

/-- Every listed case record is sound; an unlisted one is the hard-reset record. -/
def State.casesOk (s : State) : Prop := ∀ e ∈ s.cases, e.2.lifeOk

/-! ### Case Table, arrival lists and pool -/

/-- An arrival list as the manual keeps it: at most 32 arrivals, in strictly ascending CSN order, each above the baseline CSN
(R59). -/
def CaseRecord.listOk (r : CaseRecord) : Prop :=
  r.arrivals.length ≤ 32 ∧ r.arrivals.Pairwise (fun a b => a.csn < b.csn) ∧ ∀ a ∈ r.arrivals, r.baselineCsn < a.csn

/-- The slots in use: the arrivals of all lists. -/
def State.slotsInUse (s : State) : Nat := (s.cases.map (fun e => e.2.arrivals.length)).sum

/-- The Case Table lists records 0..2,047 in its canonical form, and a FREE record is the hard-reset record under its instance
(R1, R25). -/
def State.tableOk (s : State) : Prop :=
  tableWf CaseRecord.reset s.cases ∧ (∀ e ∈ s.cases, e.1 < 2048)
    ∧ ∀ e ∈ s.cases, e.2.state = .free → e.2 = CaseRecord.freeWith e.2.inst

/-- Every list is as R59 gives it, and the slots in use and the free ones make 16,384 (R57). -/
def State.poolOk (s : State) : Prop :=
  s.tableOk ∧ (∀ e ∈ s.cases, e.2.listOk) ∧ s.slotsInUse + s.poolFree = 16384

/-! ### The Card Index -/

/-- The card a case record holds in a role. -/
def CaseRecord.cardIn (r : CaseRecord) : CardRole → CardId
  | .old => r.oldCard
  | .new => r.newCard

/-- The Card Index in its order, no card twice, holding exactly the two entries of every case that is not FREE (R6, R7). -/
def State.indexOk (s : State) : Prop :=
  s.tableOk
    ∧ s.index.Pairwise (fun a b => a.card.toNat < b.card.toNat)
    ∧ (∀ e ∈ s.index, e.caseNo < 2048 ∧ (s.caseAt e.caseNo).state ≠ .free
        ∧ e.card = (s.caseAt e.caseNo).cardIn e.role)
    ∧ ∀ c role, (s.caseAt c).state ≠ .free → (⟨(s.caseAt c).cardIn role, c, role⟩ : IndexEntry) ∈ s.index

/-! ### The control path and the CP output -/

/-- A CONTROL parcel that passed the header checks: 1 to 8 command entries, as many as its header says (R34, R188). -/
def ControlParcel.sound (p : ControlParcel) : Prop :=
  p.header.kind = .control ∧ p.header.count.toNat = p.entries.length ∧ 1 ≤ p.entries.length ∧ p.entries.length ≤ 8

/-- What the Control Unit and the CP output hold agrees with the queues: the parcel under execution is at the head of the control
queue with a command left; a complete reply has as many entries as its control parcel (R164); the parcels behind the head of
the intake queue are WAITING, and a head IN_DISPOSITION has an unmarked record (R33); an INTERCEPT holds the unit only while
the head parcel is IN_DISPOSITION and the two intercept values differ (R48, R50); SWITCH_POLICY holds it exactly while
switch-pending is set, and only while an operation is in flight (R147); during initialization the path is empty (R32) and no
switch is pending (R165); and the source whose frame is being sent still holds its parcel (R54, R55). -/
structure State.controlOk (s : State) : Prop where
  parcels : ∀ p ∈ s.cp.queue, p.sound
  executing : ∀ replies held, s.control.phase = .executing replies held →
    ∃ p, s.headParcel = some p ∧ replies.length < p.entries.length
  offering : ∀ replies, s.control.phase = .offering replies →
    ∃ p, s.headParcel = some p ∧ replies.length = p.entries.length
  intercept : ∀ replies, s.control.phase = .executing replies (some .intercept) →
    s.inDisposition = true ∧ s.intake.requested ≠ s.intake.effective
  waiting : ∀ p ∈ s.intake.queue.tail, p.condition = .waiting
  disposing : s.inDisposition = true → s.intake.queue.head?.any (fun p => p.records.any IntakeRecord.unmarked) = true
  switch : s.policy.switchPending = true ↔ ∃ replies, s.control.phase = .executing replies (some .switchPolicy)
  pending : s.policy.switchPending = true → s.settle.inFlight.isSome = true
  initializing : s.init = .initializing →
    s.dp.buffer = [] ∧ s.intake.queue = [] ∧ s.forward = [] ∧ s.policy.switchPending = false
  reply : s.cp.sending = some .reply → s.offersReply = true
  notice : s.cp.sending = some .notice → s.notices.parcel.isSome = true
  forward : s.cp.sending = some .forward → s.forward ≠ []

/-- A state in which every agreement holds. -/
structure State.sound (s : State) : Prop where
  queues : s.queuesOk
  counters : s.countersOk
  time : s.timeOk
  policy : s.policyOk
  ranges : s.rangesOk
  cases : s.casesOk
  pool : s.poolOk
  index : s.indexOk
  control : s.controlOk

/-! ### The commands that execute a command entry -/

/-- The command codes of the twenty commands (R191). -/
def commandCode : Instr → Option Byte
  | .openCase => some 1
  | .cancelCase => some 2
  | .releaseCase => some 3
  | .forceSettle => some 4
  | .reissue => some 5
  | .readCase => some 6
  | .readArrivals => some 7
  | .seek => some 8
  | .get => some 9
  | .put => some 10
  | .patchBegin => some 11
  | .patchEnd => some 12
  | .switchPolicy => some 13
  | .intercept => some 14
  | .setTime => some 15
  | .readStatus => some 16
  | .setNoticeMask => some 17
  | .readLog => some 18
  | .clearLog => some 19
  | .softReset => some 20
  | .hardReset | .initializationEnd | .linkDown _ | .linkUp _ | .dpParcelArrival _ | .cpParcelArrival _
  | .intakeTakeParcel | .dispositionStartParcel | .recordDisposition | .forwardQueueEntry | .cpOutputGrant
  | .cpSendComplete | .controlParcelStart | .partTimeAdvance | .windowEndExpiry | .collectionDeadlineExpiry
  | .tailEndExpiry | .settleOperationStart | .settlementCompletion | .actionParcelStart | .actionParcelSent
  | .noticeBuild | .unknownCommand => none

/-- How many argument bytes a command's entry has, where Table 11-5 fixes the number. -/
def argumentBytes : Instr → Option Nat
  | .cancelCase | .releaseCase | .reissue | .readCase | .seek => some 3
  | .forceSettle => some 8
  | .readArrivals | .setTime => some 4
  | .get | .patchBegin | .patchEnd | .switchPolicy | .softReset => some 0
  | .intercept | .readStatus | .readLog | .clearLog => some 1
  | .setNoticeMask => some 2
  | .openCase | .put | .hardReset | .initializationEnd | .linkDown _ | .linkUp _ | .dpParcelArrival _
  | .cpParcelArrival _ | .intakeTakeParcel | .dispositionStartParcel | .recordDisposition | .forwardQueueEntry
  | .cpOutputGrant | .cpSendComplete | .controlParcelStart | .partTimeAdvance | .windowEndExpiry
  | .collectionDeadlineExpiry | .tailEndExpiry | .settleOperationStart | .settlementCompletion | .actionParcelStart
  | .actionParcelSent | .noticeBuild | .unknownCommand => none

/-- The part is READY and the Control Unit's next command entry carries a code and some argument bytes. -/
def State.takes (s : State) (code : Byte) (args : List Byte) : Prop :=
  s.init = .ready ∧ ∃ entry, s.nextEntry = some entry ∧ entryCode entry = code ∧ entryArgs entry = args

/-- The part after the command under execution is answered (R163, R164). -/
def State.answered (s : State) (code : Byte) (status : Status) (result : ReplyResult) : State :=
  s.writeReply ⟨code, status, result⟩

/-- Two states have the same case records but for one case. -/
def State.sameCasesBut (s t : State) (c : Nat) : Prop := ∀ j, j ≠ c → t.caseAt j = s.caseAt j

/-- The Disposition Unit is about to take a record: the head parcel is IN_DISPOSITION and this is its first unmarked record. -/
def State.disposesNext (s : State) (p : IntakeParcel) (rest : List IntakeParcel) (r : IntakeRecord) : Prop :=
  s.intake.queue = p :: rest ∧ p.condition = .inDisposition ∧ p.records.find? IntakeRecord.unmarked = some r

/-- The part after the record of the head parcel is marked, and nothing else has been done for it (R41, R49). -/
def State.marked (s : State) (m : Mark) : State := s.markHead m

/-- The part is READY and the next command entry names a case that stands, by its case number and instance, followed by the
command's other argument bytes (R2, Table 11-5). -/
def State.takesFor (s : State) (code : Byte) (c : Nat) (extra : List Byte) : Prop :=
  c < 2048 ∧ (s.caseAt c).state ≠ .free ∧ s.takes code (beBytes 2 c ++ (s.caseAt c).inst :: extra)

/-- The baseline of an OPEN_CASE is within range (R10). -/
def OpenArgs.inRange (a : OpenArgs) : Prop :=
  a.baselineCsn ≤ 4294967039 ∧ -50000 ≤ a.baselineBalance ∧ a.baselineBalance ≤ 1000000 ∧ a.passes.length ≤ 4
    ∧ (a.passes.map PassRecord.slot).Nodup
    ∧ ∀ p ∈ a.passes, 1 ≤ p.pass.product ∧ p.pass.product ≤ 65535 ∧ p.pass.firstDay ≤ p.pass.lastDay
        ∧ (p.pass.cls = .count → p.pass.rides ≤ 1000) ∧ (p.pass.cls = .period → p.pass.rides = 0)

/-- The notice unit after some events of a case are raised in turn at the present part time (R28, R182). -/
def State.noticesAfter (s : State) (c : Nat) (r : CaseRecord) (details : List EventDetail) : NoticeUnit :=
  details.foldl (fun n d => n.raise ⟨c, r.inst, r.hostTag, s.time.now, d⟩) s.notices

/-- A deadline some days after the present part time (R17, R22, R159). -/
def State.daysAhead (s : State) (kind : DeadlineKind) (days : Nat) : Deadline :=
  ⟨kind, min (s.time.now + days * 86400) 4294967295⟩

/-! ### What a case goes through -/

/-- `w` is the record `r` after a completion of `op` has written its result and before the reconcile step (R94, R97, R98, R112): the
result, the money, captured once, the wanted grants, the statuses that are not final, and the flags. -/
def CaseRecord.writtenBy (r : CaseRecord) (op : Operation) (w : CaseRecord) : Prop :=
  w = { r with
    result := some op.result, money := some (r.money.getD op.money), wanted := op.grants, grantStatus := w.grantStatus
    flags := { r.flags with
      mismatch := r.flags.mismatch || (match op.mode with | .forced _ _ => false | _ => op.evidence.mismatch)
      clip := r.flags.clip || decide (0 < op.result.excess), daysClipped := r.flags.daysClipped || op.daysClipped
      forced := r.flags.forced || (match op.mode with | .forced _ _ => true | _ => false) } } ∧
  ∀ slot : PassSlot, w.grantStatus.get slot =
    if r.grantStatus.get slot = .applied ∨ r.grantStatus.get slot = .refused then r.grantStatus.get slot
    else if (∃ g ∈ op.grants, g.slot = slot) then .wanted else .none

/-- The collection deadline of a record, if that is what is running: a correction leaves it as it is (R17). -/
def CaseRecord.collectionDeadline (r : CaseRecord) : Option Deadline := r.deadline.filter (fun d => d.kind == .collection)

/-- `t` is `s` after the reconcile step of case `c` where nothing is outstanding or owed to be issued, and the record it reads is
`r`, some events having been raised before it (R126, R127, R128, R17, R21, R22, R120). `issue` and `collect` say whether the step
may issue and may enter COLLECTED (Table 6-2). With something desired and a generation left, that generation starts and its
RESTORE enters the queue below a depth of 192, or is owed; with no generation left the case is HELD; with nothing desired it
enters COLLECTED; where the step may not, the case stays as it is. -/
structure State.reconciledFresh (s t : State) (c : Nat) (r : CaseRecord) (details : List EventDetail)
    (issue collect : Prop) : Prop where
  kept : t.caseAt c = { r with
    state := (t.caseAt c).state, generation := (t.caseAt c).generation, outstanding := (t.caseAt c).outstanding
    flags := { r.flags with issueOwed := (t.caseAt c).flags.issueOwed }
    deadline := (t.caseAt c).deadline, holdReasons := (t.caseAt c).holdReasons
    overpaid := max (r.applied - r.target - r.unpaid) 0 }
  issued : issue → r.desires = true → r.generation < 8191 →
    (t.caseAt c).state = .issued ∧ (t.caseAt c).generation = r.generation + 1
      ∧ (t.caseAt c).outstanding = some ⟨r.generation + 1, r.desiredCredit, r.desiredGrants⟩
      ∧ (t.caseAt c).holdReasons = r.holdReasons ∧ t.notices = s.noticesAfter c r details
  queued : issue → r.desires = true → r.generation < 8191 → s.actions.depth < 192 →
    (t.caseAt c).flags.issueOwed = false
      ∧ (t.caseAt c).deadline = some (r.collectionDeadline.getD
          (s.daysAhead .collection ((r.timing.map Timing.collectionDays).getD 0)))
      ∧ t.actions = { s.actions with untaken := s.actions.untaken
          ++ [.restore ⟨c, r.inst, r.generation + 1⟩ r.newCard r.desiredCredit r.desiredGrants] }
  owed : issue → r.desires = true → r.generation < 8191 → 192 ≤ s.actions.depth →
    (t.caseAt c).flags.issueOwed = true ∧ (t.caseAt c).deadline = r.collectionDeadline ∧ t.actions = s.actions
  exhausted : issue → r.desires = true → 8191 ≤ r.generation →
    (t.caseAt c).state = .held ∧ (t.caseAt c).generation = r.generation ∧ (t.caseAt c).outstanding = none
      ∧ (t.caseAt c).flags.issueOwed = false ∧ (t.caseAt c).deadline = none
      ∧ (t.caseAt c).holdReasons = ⟨false, false, false, false, false, true⟩ ∧ t.actions = s.actions
      ∧ t.notices = s.noticesAfter c r (details ++ [.held ⟨false, false, false, false, false, true⟩])
  collected : collect → r.desires = false →
    (t.caseAt c).state = .collected ∧ (t.caseAt c).generation = r.generation ∧ (t.caseAt c).outstanding = none
      ∧ (t.caseAt c).flags.issueOwed = false ∧ (t.caseAt c).holdReasons = r.holdReasons
      ∧ (t.caseAt c).deadline = some (s.daysAhead .tailEnd ((r.timing.map Timing.tailDays).getD 0))
      ∧ t.actions = s.actions ∧ t.notices = s.noticesAfter c r (details ++ [.collected r.applied])
  stays : (r.desires = true ∧ ¬issue) ∨ (r.desires = false ∧ ¬collect) →
    t.caseAt c = { r with overpaid := max (r.applied - r.target - r.unpaid) 0 } ∧ t.actions = s.actions
      ∧ t.notices = s.noticesAfter c r details

/-- `t` is `u` after the running deadline `d` of case `c` expires (R13, R18, R23): a window end places a FINAL request as it meets a
waiting one; a collection deadline withdraws the RESTORE and makes the case LAPSED (with generation 0 in its event where nothing was
outstanding, DESIGN CHOICE, assumption 19), said here of a withdrawal that frees no room in the Action Queue or room that no case
waits for; a tail end makes it CLOSED. -/
structure State.expiresTo (u t : State) (c : Nat) (d : Deadline) : Prop where
  windowEnd : d.kind = .windowEnd →
    t = (u.setCase c { u.caseAt c with deadline := none }).placeRequest ⟨c, .final⟩ false
  collection : d.kind = .collection → ∀ (w : State) (freed : Bool),
    (w, freed) = (u.setCase c { u.caseAt c with deadline := none }).withdraw c →
    freed = false ∨ (∀ j, (w.caseAt j).owes = false) →
    w.sameCasesBut t c ∧ t.caseAt c = { w.caseAt c with state := .lapsed } ∧
      t = { w with
        cases := t.cases
        notices := u.noticesAfter c (u.caseAt c) [.lapsed (((u.caseAt c).outstanding.map Outstanding.generation).getD 0)] }
  tailEnd : d.kind = .tailEnd →
    u.sameCasesBut t c ∧ t.caseAt c = { u.caseAt c with state := .closed, deadline := none } ∧
      t = { u with cases := t.cases, notices := u.noticesAfter c (u.caseAt c) [.closed (u.caseAt c).overpaid] }

/-- An event that began in `s` has left `u`, in which case `c` alone can have another deadline than before; `t` is the part once a
deadline so set that part time had already reached has expired (R8, R22, R159). -/
structure State.reachedTaken (s u t : State) (c : Nat) : Prop where
  unreached : (∀ d, (u.caseAt c).deadline = some d → (s.caseAt c).deadline = some d ∨ s.time.now < d.due) → t = u
  reached : ∀ d, (u.caseAt c).deadline = some d → (s.caseAt c).deadline ≠ some d → d.due ≤ s.time.now → u.expiresTo t c d

/-- The states a live case can reach from another by one event of the case (01 sections 1.6 to 1.8). -/
def CaseState.leadsTo : CaseState → CaseState → Prop
  | .collecting, t => t = .collecting ∨ t = .held ∨ t = .issued ∨ t = .collected ∨ t = .cancelled
  | .held, t => t = .held ∨ t = .issued ∨ t = .collected ∨ t = .cancelled
  | .issued, t => t = .issued ∨ t = .lapsed ∨ t = .collected ∨ t = .held ∨ t = .cancelled
  | .lapsed, t => t = .lapsed ∨ t = .issued ∨ t = .collected ∨ t = .held ∨ t = .cancelled
  | .collected, t => t = .collected ∨ t = .issued ∨ t = .held ∨ t = .closed
  | .closed, t => t = .closed
  | .cancelled, t => t = .cancelled
  | .free, _ => False

/-- The states a live case can reach within one command: by an event of the case, and then, where that event set a collection
deadline or a tail end already reached, by its expiry (R8, R22). -/
def CaseState.goesTo (s t : CaseState) : Prop :=
  s.leadsTo t ∨ (s.leadsTo .issued ∧ t = .lapsed) ∨ (s.leadsTo .collected ∧ t = .closed)

/-- A final grant status stays (R112). -/
def GrantStatus.keeps (before after : GrantStatus) : Prop :=
  (before = .applied → after = .applied) ∧ (before = .refused → after = .refused)

/-- How the record of a live case goes on while it stays a case: what opening fixed stays (R11, R12, R104); captured money stays
(R96); every flag but ISSUE_OWED stays set (R4); coverage flags, the lock CSN and final grant statuses stay (R66, R72, R112); the
generation, applied, unpaid and the pruned count never fall (R117, R131, R69); the state moves along the states of Table 1-3. -/
structure CaseRecord.goesOn (r r' : CaseRecord) : Prop where
  opening : r'.inst = r.inst ∧ r'.oldCard = r.oldCard ∧ r'.newCard = r.newCard ∧ r'.operator = r.operator
    ∧ r'.hostTag = r.hostTag ∧ r'.feeWaived = r.feeWaived ∧ r'.blockInstant = r.blockInstant
    ∧ r'.instantClamped = r.instantClamped ∧ r'.baselineCsn = r.baselineCsn
    ∧ r'.baselineBalance = r.baselineBalance ∧ r'.baselinePasses = r.baselinePasses ∧ r'.timing = r.timing
  money : r.money.isSome = true → r'.money = r.money
  result : r.result.isSome = true → r'.result.isSome = true
  flags : (r.flags.conflict = true → r'.flags.conflict = true) ∧ (r.flags.mismatch = true → r'.flags.mismatch = true)
    ∧ (r.flags.lockBreach = true → r'.flags.lockBreach = true)
    ∧ (r.flags.evidenceLost = true → r'.flags.evidenceLost = true)
    ∧ (r.flags.cardLocked = true → r'.flags.cardLocked = true)
    ∧ (r.flags.clockDoubt = true → r'.flags.clockDoubt = true) ∧ (r.flags.forced = true → r'.flags.forced = true)
    ∧ (r.flags.clip = true → r'.flags.clip = true) ∧ (r.flags.daysClipped = true → r'.flags.daysClipped = true)
    ∧ (r.flags.underApplied = true → r'.flags.underApplied = true)
  coverage : ∀ n, r.coverage.getLsbD n = true → r'.coverage.getLsbD n = true
  lock : r.lockCsn.isSome = true → r'.lockCsn = r.lockCsn
  grants : ∀ slot : PassSlot, (r.grantStatus.get slot).keeps (r'.grantStatus.get slot)
  totals : r.generation ≤ r'.generation ∧ r.applied ≤ r'.applied ∧ r.unpaid ≤ r'.unpaid ∧ r.pruned ≤ r'.pruned
  state : r.state.goesTo r'.state

/-- An outstanding action carries exactly what its case desires (R127), and a slot whose status is NONE has no wanted grant
(R112). -/
def State.actionsAgree (s : State) : Prop :=
  (∀ c o, (s.caseAt c).outstanding = some o →
    o.credit = (s.caseAt c).desiredCredit ∧ o.grants = (s.caseAt c).desiredGrants)
  ∧ ∀ (c : Nat) (slot : PassSlot), (s.caseAt c).grantStatus.get slot = .none →
    ∀ g ∈ (s.caseAt c).wanted, g.slot ≠ slot

end Sys2Proof.Machine
end

