-- ==== Sys2Proof/Certificates/Slice0/Obligations.lean ====
section
/-! DEFINITION. The statements for the provers, each `def Obligations.<Name> : Prop`. They quantify over every state, reachable or
not; where a statement holds only of states in which the part's tables and queues agree, it says so by a predicate of Safety.lean,
and the statements whose names end in Kept say that every step keeps those predicates. A statement about a command of a control
parcel starts from `State.takes`: the part is READY and the Control Unit's next command entry carries that command's code and
some argument bytes. -/

open Sys2Proof Sys2Proof.Machine

/-! ### The queue of commands, resets and the initialization period -/

/-- One step runs the command at the front of the queue on the part with the queue's rest. -/
def Obligations.StepRunsTheFrontCommand : Prop :=
  ∀ (c : Instr) (s : State), step { s with pending := c :: s.pending } = exec c s

/-- The model's own conventions. Every command of the table ends in a next state, and no command, not even HARD_RESET,
touches the commands that wait behind it (DESIGN CHOICE, assumptions 2 and 4). A command of Table 9-1 that meets no next
command entry, or one that carries another command's code, leaves the part as it is; and so does UNKNOWN_COMMAND where there
is no next entry or its code is one of the twenty (DESIGN CHOICE, assumptions 1 and 2). What each other command does where it
finds nothing to do is stated with that command. -/
def Obligations.EveryCommandEndsInANextState : Prop :=
  (∀ (c : Instr) (s : State), ∃ t, exec c s = .next t ∧ t.pending = s.pending) ∧
  (∀ (c : Instr) (code : Byte) (s : State), commandCode c = some code →
    (∀ entry, s.nextEntry = some entry → entryCode entry ≠ code) → exec c s = .next s) ∧
  ∀ s : State, (∀ entry, s.nextEntry = some entry → 1 ≤ (entryCode entry).toNat ∧ (entryCode entry).toNat ≤ 20) →
    exec .unknownCommand s = .next s

/-- R166, R177, R141, R150, R154, R178, R182, R183: HARD_RESET loses all state in the part. Every piece of the spec's state
takes its reset value; the index of the free values is the model's own and is left open here (assumption 10). That the Case
Table, the Card Index, the pool, the banks, the ranges and the Action Queue stand at their reset values from the release on,
and not only from the end of the initialization period as R167 has it, and that the waiting commands stay, are the model's
choices (DESIGN CHOICE, assumption 4). -/
def Obligations.HardResetLosesAllState : Prop :=
  ∀ s : State, ∃ t, exec .hardReset s = .next t ∧
    t.init = .initializing ∧ t.dp = ⟨.down, [], false, 0⟩ ∧ t.cp = ⟨.down, [], none⟩ ∧ t.intake = ⟨[], false, false⟩ ∧
    t.forward = [] ∧ t.index = [] ∧ (∀ c, t.caseAt c = CaseRecord.freeWith 0) ∧ t.poolFree = 16384 ∧
    t.settle = ⟨[], none⟩ ∧ t.actions = ⟨[], [], 0⟩ ∧ t.policy.active = .a ∧ t.policy.switchPending = false ∧
    (∀ op : Operator, t.policy.bankA[op] = ⟨false, 0, 50000, .holder, 72, 30, 14, 10800, 0, 14, false, false⟩ ∧
      t.policy.bankB[op] = ⟨false, 0, 50000, .holder, 72, 30, 14, 10800, 0, 14, false, false⟩) ∧
    (∀ i : Fin 32, t.ranges[i] = ⟨false, 0, 0xFFFFFFFFFFFFFF, 0, 0, false⟩) ∧
    t.time = ⟨.unset, 0⟩ ∧ t.control = ⟨.idle, ⟨.policyStandby 0, none, none⟩, 0⟩ ∧
    (∀ i : Fin 32, t.log.records[i] = none) ∧ t.log.writeIndex = 0 ∧ t.log.overflow = false ∧ t.log.lost = 0 ∧
    t.notices = ⟨[], [], 0, true, true, false, false, none, 0⟩ ∧ t.pending = s.pending

/-- R1, R6, R32, R57, R75, R119, R141, R150, R166: at the end of the initialization period the part is READY, its tables
stand at their hard-reset values and its path is empty; links, clock, counters, log, masks, control path and intercept stay.
A part that is READY already has no such event. R166, R154: only HARD_RESET ends READY, and only HARD_RESET ends a clock that
is SET. -/
def Obligations.InitializationEndsAndReadyStays : Prop :=
  (∀ s : State,
    (s.init = .initializing → ∃ t, exec .initializationEnd s = .next t ∧
      t = { s with
        init := .ready, dp := { s.dp with buffer := [] }, intake := { s.intake with queue := [] }, forward := [],
        index := [], ranges := t.ranges, cases := t.cases, poolFree := 16384, settle := ⟨[], none⟩,
        actions := ⟨[], [], 0⟩, policy := t.policy } ∧
      (∀ c, t.caseAt c = CaseRecord.freeWith 0) ∧
      (∀ i : Fin 32, t.ranges[i] = ⟨false, 0, 0xFFFFFFFFFFFFFF, 0, 0, false⟩) ∧
      t.policy.active = .a ∧ t.policy.switchPending = false ∧
      ∀ op : Operator, t.policy.bankA[op] = ⟨false, 0, 50000, .holder, 72, 30, 14, 10800, 0, 14, false, false⟩ ∧
        t.policy.bankB[op] = ⟨false, 0, 50000, .holder, 72, 30, 14, 10800, 0, 14, false, false⟩) ∧
    (s.init = .ready → exec .initializationEnd s = .next s)) ∧
  (∀ (c : Instr) (s t : State), exec c s = .next t → c ≠ .hardReset →
    (s.init = .ready → t.init = .ready) ∧ (s.time.clock = .set → t.time.clock = .set))

/-- R165 step 1: an entry whose code is not one of the twenty is answered UNKNOWN_COMMAND, with the code as received, in
every state of the part. R165 step 2: during the initialization period every command but READ_STATUS is answered INITIALIZING
and changes nothing else. R165 step 3, R191: in READY, an entry whose length is not the one its arguments give, or with a
value outside its enumeration, is answered BAD_ARGUMENT and changes nothing else: the length of OPEN_CASE, its operator, its
yes/no value, and the slot and class of its pass records; the yes/no, ON/OFF and mask values of the other commands; the table
of a PUT and the length of its row; the indexes of READ_LOG and CLEAR_LOG. The table and row of SEEK are stated on their own.
-/
def Obligations.EntryChecksComeFirst : Prop :=
  (∀ (s : State) (entry : List Byte), s.nextEntry = some entry →
    (entryCode entry).toNat = 0 ∨ 20 < (entryCode entry).toNat →
    exec .unknownCommand s = .next (s.answered (entryCode entry) .unknownCommand .none)) ∧
  (∀ (c : Instr) (code : Byte) (s : State) (entry : List Byte),
    commandCode c = some code → c ≠ .readStatus → s.init = .initializing → s.nextEntry = some entry →
    entryCode entry = code → exec c s = .next (s.answered code .initializing .none)) ∧
  (∀ (c : Instr) (code : Byte) (n : Nat) (s : State) (args : List Byte),
    commandCode c = some code → argumentBytes c = some n → s.takes code args → args.length ≠ n →
    exec c s = .next (s.answered code .badArgument .none)) ∧
  ∀ (c : Instr) (code : Byte) (s : State) (args : List Byte) (arg : Nat → Nat), commandCode c = some code →
    s.takes code args → (∀ i, arg i = (args.getD i 0).toNat) →
    (c = .openCase ∧ (args.length ≠ 33 + 10 * arg 32 ∨ 63 < arg 14 ∨ 1 < arg 19 ∨
        ∃ k, k < arg 32 ∧ (3 < arg (33 + 10 * k) ∨ 1 < arg (36 + 10 * k)))) ∨
      (c = .forceSettle ∧ 1 < arg 7) ∨
      (c = .put ∧ (args = [] ∨ 3 < arg 0 ∨ (arg 0 = 0 ∧ args.length ≠ 20) ∨ (arg 0 = 2 ∧ args.length ≠ 18))) ∨
      (c ∈ ([.intercept, .readStatus, .setNoticeMask] : List Instr) ∧ 1 < arg 0) ∨
      (c = .setNoticeMask ∧ 1 < arg 1) ∨ (c = .readLog ∧ 31 < arg 0) ∨ (c = .clearLog ∧ 31 < arg 0 ∧ arg 0 ≠ 255) →
    exec c s = .next (s.answered code .badArgument .none)

/-- R163, R164: the Control Unit, holding no parcel and no reply, starts the head of the control queue; each answer is one
reply entry, and the reply parcel is complete, and offered, when the last command is answered. An answer changes the Control
Unit's phase and nothing else. -/
def Obligations.ControlParcelIsAnsweredEntryByEntry : Prop :=
  (∀ (s : State) (p : ControlParcel) (rest : List ControlParcel), s.control.phase = .idle → s.cp.queue = p :: rest →
    exec .controlParcelStart s = .next { s with control := { s.control with phase := .executing [] none } }) ∧
  (∀ s : State, s.control.phase ≠ .idle ∨ s.cp.queue = [] → exec .controlParcelStart s = .next s) ∧
  ∀ (s : State) (p : ControlParcel) (replies : List ReplyEntry) (held : Option HeldCommand) (code : Byte) (st : Status)
    (res : ReplyResult), s.control.phase = .executing replies held → s.cp.queue.head? = some p →
    replies.length < p.entries.length →
    s.answered code st res = { s with
      control := { s.control with
        phase := if replies.length + 1 = p.entries.length then .offering (replies ++ [⟨code, st, res⟩])
          else .executing (replies ++ [⟨code, st, res⟩]) none } }

/-! ### The ports -/

/-- R30, R36, R55, R125: a falling link cuts the frame being sent on its port: the taken action entries are untaken again at
the head in their order and the sequence stays; the parcel on the Clearing Port stays with its source. A rising link changes
the link state alone. -/
def Obligations.LinkChanges : Prop :=
  ∀ s : State,
    exec (.linkDown .device) s = .next { s with
      dp := { s.dp with link := .down }
      actions := ⟨[], s.actions.taken ++ s.actions.untaken, s.actions.seq⟩ } ∧
    exec (.linkDown .clearing) s = .next { s with cp := { s.cp with link := .down, sending := none } } ∧
    exec (.linkUp .device) s = .next { s with dp := { s.dp with link := .up } } ∧
    exec (.linkUp .clearing) s = .next { s with cp := { s.cp with link := .up } }

/-- R30, R31, R32, R187: what a frame at the Device Port does. A frame that fails its check, exceeds 9,000 bytes or meets a
DOWN link is discarded without count. During initialization the parcel is dropped and counted. Otherwise it joins the buffer
while that holds fewer than 8, and clears the drop-run flag; or it is dropped and counted, and logged only when it opens a
run of drops, with the source and sequence of its header as received. For a parcel length below 7, which leaves bytes of
source or sequence outside the parcel, what the record holds is the model's choice (DESIGN CHOICE, assumption 32). -/
def Obligations.DeviceParcelIsBufferedOrDropped : Prop :=
  ∀ (s : State) (f : RxFrame),
    (f.checkOk = false ∨ 9000 < f.payload.length ∨ s.dp.link = .down → exec (.dpParcelArrival f) s = .next s) ∧
    (f.checkOk = true → f.payload.length ≤ 9000 → s.dp.link = .up →
      (s.init = .initializing → exec (.dpParcelArrival f) s =
        .next { s with dp := { s.dp with dropped := min (s.dp.dropped + 1) (max s.dp.dropped 65535) } }) ∧
      (s.init = .ready → s.dp.buffer.length < 8 → exec (.dpParcelArrival f) s =
        .next { s with dp := { s.dp with buffer := s.dp.buffer ++ [f.payload], dropRun := false } }) ∧
      (s.init = .ready → 8 ≤ s.dp.buffer.length → s.dp.dropRun = true → exec (.dpParcelArrival f) s =
        .next { s with dp := { s.dp with dropped := min (s.dp.dropped + 1) (max s.dp.dropped 65535) } }) ∧
      (s.init = .ready → 8 ≤ s.dp.buffer.length → s.dp.dropRun = false → 9 ≤ f.payload.length →
        ∃ t : State, exec (.dpParcelArrival f) s = .next { t with freeDraws := s.freeDraws + 1 } ∧
          t = ({ s with dp := { s.dp with
              dropped := min (s.dp.dropped + 1) (max s.dp.dropped 65535), dropRun := true } } : State).logException
            none none none (.parcelDropped (BitVec.ofNat 24 (fieldNat f.payload 4 3))
              (BitVec.ofNat 16 (fieldNat f.payload 7 2)))))

/-- R36, R162, R34: what a frame at the Clearing Port does, by the header checks, the kind and the room of the control queue.
R34, R187, R188: the five header checks, on either port, in their order. The first that fails is found: a payload without a
whole header or a parcel length below 8 or above the bytes that follow; a kind of none; a version that is not 1; an entry
count of 0 or above the maximum of the kind; bytes after the header that are not so many entries, of 48 bytes for UPLOAD and
opening with their own length, at least 4, for the others. A parcel that passes all five is those entries under its header.
-/
def Obligations.ClearingParcelIsQueuedOrLogged : Prop :=
  (∀ (s : State) (f : RxFrame),
    (f.checkOk = false ∨ 9000 < f.payload.length ∨ s.cp.link = .down → exec (.cpParcelArrival f) s = .next s) ∧
    (f.checkOk = true → f.payload.length ≤ 9000 → s.cp.link = .up →
      (∀ check, checkParcel f.payload = .error check → exec (.cpParcelArrival f) s =
        .next (s.logException none none none (.parcelMalformed .clearing check))) ∧
      ∀ p : Parcel, checkParcel f.payload = .ok p →
        (p.header.kind ≠ .control → exec (.cpParcelArrival f) s =
          .next (s.logException none none none (.wrongPort .clearing p.header.kind p.header.source))) ∧
        (p.header.kind = .control → s.cp.queue.length < 8 → exec (.cpParcelArrival f) s =
          .next { s with cp := { s.cp with queue := s.cp.queue ++ [⟨p.header, p.entries⟩] } }) ∧
        (p.header.kind = .control → 8 ≤ s.cp.queue.length → exec (.cpParcelArrival f) s =
          .next (({ s with control := { s.control with
              dropped := min (s.control.dropped + 1) (max s.control.dropped 65535) } } : State).logException
            none none none (.controlDropped p.header.source p.header.seq))))) ∧
  ∀ (payload : List Byte) (b : Nat → Nat) (length : Nat), (∀ i, b i = (payload.getD i 0).toNat) → length = b 0 * 256 + b 1 →
    (payload.length < 10 ∨ length < 8 ∨ payload.length < 2 + length → checkParcel payload = .error .length) ∧
    (10 ≤ payload.length → 8 ≤ length → 2 + length ≤ payload.length →
      (b 2 = 0 ∨ 5 < b 2 → checkParcel payload = .error .kind) ∧
      ∀ kind : ParcelKind, 1 ≤ b 2 → ([.upload, .action, .control, .reply, .notice] : List ParcelKind)[b 2 - 1]? = some kind →
        (b 3 ≠ 1 → checkParcel payload = .error .version) ∧
        (b 3 = 1 → ∀ most : Nat, most = (match kind with | .upload => 32 | .action | .notice => 16 | .control | .reply => 8) →
          (b 9 = 0 ∨ most < b 9 → checkParcel payload = .error .countRange) ∧
          (1 ≤ b 9 → b 9 ≤ most → ∀ agrees : List (List Byte) → Prop,
            (∀ entries, agrees entries ↔ entries.length = b 9 ∧ entries.flatten = (payload.drop 10).take (length - 8) ∧
              ∀ e ∈ entries, if kind = .upload then e.length = 48 else 4 ≤ e.length ∧ fieldNat e 0 2 = e.length) →
            ((∀ entries, ¬agrees entries) → checkParcel payload = .error .countAgreement) ∧
            ∀ entries, agrees entries → ∃ header : Header, checkParcel payload = .ok ⟨header, entries⟩ ∧ header.kind = kind ∧
              header.source.toNat = (b 4 * 256 + b 5) * 256 + b 6 ∧ header.seq.toNat = b 7 * 256 + b 8 ∧
              header.count.toNat = b 9)))

/-- R54: with the link UP and the output free the first waiting source is granted it, a reply before a notice before a
forwarded parcel; with the link DOWN or the output busy nothing is granted. R54, R164, R184: when a frame has left the
Clearing Port the output is free; a reply takes its control parcel with it, a notice its taken events and one step of the
sequence, a forwarded parcel its place in the forward queue. -/
def Obligations.OutputIsGrantedAndSent : Prop :=
  (∀ s : State,
    (s.cp.link = .down ∨ s.cp.sending.isSome = true → exec .cpOutputGrant s = .next s) ∧
    (s.cp.link = .up → s.cp.sending = none → exec .cpOutputGrant s = .next { s with
      cp := { s.cp with
        sending := if s.offersReply then some .reply
          else if s.notices.parcel ≠ none then some .notice
          else if s.forward ≠ [] then some .forward else none } })) ∧
  (∀ s : State,
    (s.cp.sending = none → exec .cpSendComplete s = .next s) ∧
    (s.cp.sending = some .reply → exec .cpSendComplete s = .next { s with
      cp := { s.cp with sending := none, queue := s.cp.queue.tail }, control := { s.control with phase := .idle } }) ∧
    (s.cp.sending = some .notice → exec .cpSendComplete s = .next { s with
      cp := { s.cp with sending := none }
      notices := { s.notices with taken := [], parcel := none, seq := s.notices.seq + 1 } }) ∧
    (s.cp.sending = some .forward → exec .cpSendComplete s = .next { s with
      cp := { s.cp with sending := none }, forward := s.forward.tail }))

/-! ### Intake -/

/-- R34, R35, R37, R38: the Intake Unit takes the head of the DP buffer: a parcel with a failing header is dropped with
PARCEL_MALFORMED, one of another kind with WRONG_PORT; an UPLOAD parcel waits for room for all its records, and is then taken
whole, its records at the tail of the intake queue as a new WAITING parcel stamped with the part time, nothing logged while
no record fails a check of R39. R40: one RECORDS_MALFORMED for a parcel with MALFORMED records: their number, the position of
the first, its card (none when 0) and its device, the parcel's source and sequence. R189: the fields of a record of 48 bytes
stand where Table 11-2 puts them, most significant byte first, an optional one present exactly when its bit of byte 19 is
set; that the rides of a PERIOD pass are read as 0 is the model's reading (DEDUCED, assumption 31). R39: a record is
MALFORMED exactly when its kind is none of the five, its card is 0, its amount, balance or present slot is out of range, or a
field its kind requires is absent. -/
def Obligations.IntakeTakesTheHeadParcel : Prop :=
  (∀ (s : State) (payload : List Byte) (rest : List (List Byte)), s.dp.buffer = payload :: rest →
    (∀ check, checkParcel payload = .error check → exec .intakeTakeParcel s =
      .next (({ s with dp := { s.dp with buffer := rest } } : State).logException none none none
        (.parcelMalformed .device check))) ∧
    ∀ p : Parcel, checkParcel payload = .ok p →
      (p.header.kind ≠ .upload → exec .intakeTakeParcel s =
        .next (({ s with dp := { s.dp with buffer := rest } } : State).logException none none none
          (.wrongPort .device p.header.kind p.header.source))) ∧
      (p.header.kind = .upload → 512 < s.intake.used + p.entries.length → exec .intakeTakeParcel s = .next s) ∧
      (p.header.kind = .upload → s.intake.used + p.entries.length ≤ 512 →
        ∃ t : State, exec .intakeTakeParcel s = .next t ∧ t.dp = { s.dp with buffer := rest } ∧
          t.intake = { s.intake with
            queue := s.intake.queue ++ [⟨p.header, p.entries.map (fun raw =>
              ⟨raw, s.time.now, if (usageRecord raw).malformed then some .malformed else none⟩), .waiting⟩] } ∧
          t = { s with dp := t.dp, intake := t.intake, log := t.log, notices := t.notices } ∧
          ((∀ raw ∈ p.entries, (usageRecord raw).malformed = false) → t.log = s.log ∧ t.notices = s.notices))) ∧
  (∀ (s : State) (payload : List Byte) (rest : List (List Byte)) (p : Parcel) (before after : List (List Byte)) (raw : List Byte),
    s.dp.buffer = payload :: rest → checkParcel payload = .ok p → p.header.kind = .upload →
    s.intake.used + p.entries.length ≤ 512 → p.entries = before ++ raw :: after →
    (∀ x ∈ before, (usageRecord x).malformed = false) → (usageRecord raw).malformed = true →
    ∃ t u : State, exec .intakeTakeParcel s = .next t ∧
      u = { s with dp := t.dp, intake := t.intake } ∧
      t = u.logException none (if (usageRecord raw).card = 0 then none else some (usageRecord raw).card)
        (some (usageRecord raw).device)
        (.recordsMalformed p.header.source p.header.seq
          (1 + (after.filter (fun x => (usageRecord x).malformed)).length) before.length)) ∧
  ∀ (raw : List Byte) (b : Nat → Nat) (num : Nat → Nat → Nat) (int : Nat → Int) (has : Nat → Bool) (u : UsageRecord),
    raw.length = 48 → (∀ i, b i = (raw.getD i 0).toNat) →
    (∀ p n, num p n = (List.range n).foldl (fun v i => v * 256 + b (p + i)) 0) →
    (∀ p, int p = if num p 4 < 2147483648 then (num p 4 : Int) else (num p 4 : Int) - 4294967296) →
    (∀ i, has i = (b 19).testBit i) → u = usageRecord raw →
    (u.card.toNat = num 0 7 ∧ u.csn = num 8 4 ∧ u.deviceTime = num 12 4 ∧ u.device.toNat = num 16 3 ∧
      u.operator.val = b 20 % 64 ∧ u.amount = int 22 ∧ u.balanceAfter = int 26 ∧
      (∀ kind : RecordKind, u.kind = some kind ↔
        1 ≤ b 7 ∧ ([.purseUse, .purseLoad, .passUse, .passSale, .actionApplied] : List RecordKind)[b 7 - 1]? = some kind) ∧
      (u.slot = none ↔ has 0 = false ∨ 3 < b 30) ∧ (∀ slot, u.slot = some slot → slot.val = b 30) ∧
      (u.passAfter.isSome = has 1) ∧ (∀ pass, u.passAfter = some pass →
        pass.product = num 32 2 ∧ (pass.cls = .count ↔ b 34 % 2 = 1) ∧ pass.firstDay = num 35 2 ∧ pass.lastDay = num 37 2 ∧
        pass.rides = if b 34 % 2 = 1 then num 39 2 else 0) ∧
      (u.ref.isSome = has 2) ∧ (∀ ref, u.ref = some ref →
        ref.value = num 41 4 ∧ ref.caseNo < 2048 ∧ ref.generation < 8192) ∧
      (u.mask.isSome = has 3) ∧ ∀ mask, u.mask = some mask → mask.toNat = b 31 % 16) ∧
    (u.malformed = true ↔
      b 7 = 0 ∨ 5 < b 7 ∨ num 0 7 = 0 ∨ int 22 < -1000000 ∨ 1000000 < int 22 ∨ int 26 < -50000 ∨ 1000000 < int 26 ∨
        (has 0 = true ∧ 3 < b 30) ∨ ((b 7 = 3 ∨ b 7 = 4) ∧ (has 0 = false ∨ has 1 = false)) ∨
        (b 7 = 5 ∧ (has 2 = false ∨ has 3 = false)))

/-- R41, R33, R51, R52: the Disposition Unit starts a WAITING head parcel, which is MARKED at once when it has no record to
take; a MARKED head parcel enters the forward queue once that holds fewer than 16, with its header and with each record
unchanged but for its mark byte. R33, R41, R49: a record is marked in its place. While another of its parcel is unmarked, the
mark is all; the last mark makes the parcel MARKED, and at that boundary the effective intercept value takes the requested
one and a held INTERCEPT is answered OK. That a started parcel is IN_DISPOSITION at once, before its first record is taken,
is the model's reading of R41 by R49 (DEDUCED, assumption 7). -/
def Obligations.ParcelConditionsOfTheHead : Prop :=
  (∀ (s : State) (p : IntakeParcel) (rest : List IntakeParcel), s.intake.queue = p :: rest →
    (p.condition = .waiting → exec .dispositionStartParcel s = .next { s with intake := { s.intake with
      queue := { p with condition := if (∃ r ∈ p.records, r.mark = none) then .inDisposition else .marked } :: rest } }) ∧
    (p.condition ≠ .waiting → exec .dispositionStartParcel s = .next s) ∧
    (p.condition = .marked → s.forward.length < 16 → (∀ r ∈ p.records, r.mark ≠ none) →
      ∃ fp : ForwardParcel, exec .forwardQueueEntry s = .next { s with
          intake := { s.intake with queue := rest }, forward := s.forward ++ [fp] } ∧
        fp.header = p.header ∧ fp.records.length = p.records.length ∧
        ∀ (i : Nat) (r : IntakeRecord) (m : Mark), p.records[i]? = some r → r.mark = some m →
          fp.records[i]? = some (r.raw.set 21 m.code)) ∧
    (p.condition ≠ .marked ∨ 16 ≤ s.forward.length → exec .forwardQueueEntry s = .next s)) ∧
  (∀ (s : State) (p : IntakeParcel) (rest : List IntakeParcel) (before after : List IntakeRecord) (r : IntakeRecord) (m : Mark),
    s.intake.queue = p :: rest → p.condition = .inDisposition → p.records = before ++ r :: after →
    (∀ x ∈ before, x.mark ≠ none) → r.mark = none →
    ((∃ x ∈ after, x.mark = none) →
      s.marked m = { s with intake := { s.intake with
        queue := { p with records := before ++ { r with mark := some m } :: after } :: rest } }) ∧
    ((∀ x ∈ after, x.mark ≠ none) →
      ∀ u : State, u = { s with intake := { s.intake with
          queue := { p with records := before ++ { r with mark := some m } :: after, condition := .marked } :: rest
          effective := s.intake.requested } } →
        ((∃ replies, s.control.phase = .executing replies (some .intercept)) → s.marked m = u.answered 14 .ok .none) ∧
        ((∀ replies, s.control.phase ≠ .executing replies (some .intercept)) → s.marked m = u)))

/-! ### Disposition -/

/-- R42: with the effective intercept value OFF the record is marked UNCHECKED and nothing else happens. R45, R46: a record
of a card in no case is RANGE_BLOCKED when a valid row matches it under the row's mask; else CLEAR, unless it is an
ACTION_APPLIED record whose ref names no live case under its instance: that one is FOREIGN_ACTION, and logged. -/
def Obligations.RecordOfNoCaseOrUnderInterceptOff : Prop :=
  (∀ (s : State) (p : IntakeParcel) (rest : List IntakeParcel) (r : IntakeRecord), s.disposesNext p rest r →
    s.intake.effective = false → exec .recordDisposition s = .next (s.marked .unchecked)) ∧
  (∀ (s : State) (p : IntakeParcel) (rest : List IntakeParcel) (r : IntakeRecord) (u : UsageRecord),
    s.disposesNext p rest r → s.intake.effective = true → u = usageRecord r.raw → s.lookup u.card = none →
    ((∃ i : Fin 32, s.ranges[i].valid = true ∧ u.card &&& s.ranges[i].mask = s.ranges[i].base &&& s.ranges[i].mask) →
      exec .recordDisposition s = .next (s.marked .rangeBlocked)) ∧
    ((∀ i : Fin 32, s.ranges[i].valid = false ∨ u.card &&& s.ranges[i].mask ≠ s.ranges[i].base &&& s.ranges[i].mask) →
      (u.kind ≠ some .actionApplied → exec .recordDisposition s = .next (s.marked .clear)) ∧
      ∀ ref : Ref, u.kind = some .actionApplied → u.ref = some ref →
        (ref.caseNo < 2048 ∧ (s.caseAt ref.caseNo).state ≠ .free ∧ (s.caseAt ref.caseNo).inst = ref.inst →
          exec .recordDisposition s = .next (s.marked .clear)) ∧
        (2048 ≤ ref.caseNo ∨ (s.caseAt ref.caseNo).state = .free ∨ (s.caseAt ref.caseNo).inst ≠ ref.inst →
          exec .recordDisposition s =
            .next ((s.logException none (some u.card) (some u.device) (.foreignAction ref)).marked .foreignAction))))

/-- R44, R130, R134: a new-card record that is not ACTION_APPLIED is NEW_CARD and touches nothing; an ACTION_APPLIED one
whose ref names another case or instance, generation 0, or a generation above those used is FOREIGN_ACTION: logged with the
case, it changes nothing in the case. R43, R26, R38: an old-card record of a CLOSED case is OLD_CLOSED and not attached, and
one that would be classed PRE is logged as STRAY_EVIDENCE; of a CANCELLED case it is CLEAR. A record stamped 0 is judged by
the part time of its disposition. -/
def Obligations.CaseRecordThatCountsNothing : Prop :=
  (∀ (s : State) (p : IntakeParcel) (rest : List IntakeParcel) (r : IntakeRecord) (u : UsageRecord) (c : Nat),
    s.disposesNext p rest r → s.intake.effective = true → u = usageRecord r.raw →
    s.lookup u.card = some ⟨u.card, c, .new⟩ →
    (u.kind ≠ some .actionApplied → exec .recordDisposition s = .next (s.marked .newCard)) ∧
    ∀ (ref : Ref) (mask : BitVec 4), u.kind = some .actionApplied → u.ref = some ref → u.mask = some mask →
      ref.caseNo ≠ c ∨ ref.inst ≠ (s.caseAt c).inst ∨ ref.generation = 0 ∨
        ((s.caseAt c).generation < ref.generation ∧
          ∀ o, (s.caseAt c).outstanding = some o → o.generation ≠ ref.generation) →
      exec .recordDisposition s =
        .next ((s.logException (some c) (some u.card) (some u.device) (.foreignAction ref)).marked .foreignAction)) ∧
  (∀ (s : State) (p : IntakeParcel) (rest : List IntakeParcel) (r : IntakeRecord) (u : UsageRecord) (c stamp : Nat),
    s.disposesNext p rest r → s.intake.effective = true → u = usageRecord r.raw →
    s.lookup u.card = some ⟨u.card, c, .old⟩ → stamp = (if r.stamp = 0 then s.time.now else r.stamp) →
    ((s.caseAt c).state = .cancelled → exec .recordDisposition s = .next (s.marked .clear)) ∧
    ((s.caseAt c).state = .closed → u.deviceTime < (s.caseAt c).blockInstant → u.deviceTime ≤ stamp + 600 →
      exec .recordDisposition s = .next ((s.logException (some c) (some (s.caseAt c).oldCard) (some u.device)
        (.strayEvidence u.csn u.deviceTime)).marked .oldClosed)) ∧
    ((s.caseAt c).state = .closed → (s.caseAt c).blockInstant ≤ u.deviceTime ∨ stamp + 600 < u.deviceTime →
      exec .recordDisposition s = .next (s.marked .oldClosed)))

/-- R43, R58: an old-card record of a case in COLLECTING, HELD, ISSUED, LAPSED or COLLECTED is attached: the disposition is
the attachment of the arrival the record makes, and the mark it gives. -/
def Obligations.OldCardRecordOfALiveCaseIsAttached : Prop :=
  ∀ (s : State) (p : IntakeParcel) (rest : List IntakeParcel) (r : IntakeRecord) (u : UsageRecord) (c stamp : Nat)
    (kind : RecordKind) (a : Arrival),
    s.disposesNext p rest r → s.intake.effective = true → u = usageRecord r.raw → u.kind = some kind →
    s.lookup u.card = some ⟨u.card, c, .old⟩ → stamp = (if r.stamp = 0 then s.time.now else r.stamp) →
    (s.caseAt c).state ∈ [.collecting, .held, .issued, .lapsed, .collected] →
    a = ⟨u.csn, kind, u.deviceTime, stamp, u.device, u.operator, u.amount, u.balanceAfter, u.slot, u.passAfter, u.ref,
      if stamp + 600 < u.deviceTime then .untimed
      else if u.deviceTime < (s.caseAt c).blockInstant then .pre else .post⟩ →
    exec .recordDisposition s = .next ((s.attach c a).1.marked (s.attach c a).2)

/-! ### Attachment -/

/-- R61, R62, R63: the tests that leave a record out of the list, in their order, for a record not above a lock CSN. Only a
differing copy changes anything: CONFLICT is set and RECORD_CONFLICT logged with the first differing field. R62: two copies
agree exactly when kind, device time, device, amount, balance after, slot, pass state after and ref do: a pass state by
product, class and days, and by rides for COUNT. The field logged is the first of these eight, in this order, in which the
copies differ. -/
def Obligations.RecordAlreadyAccountedFor : Prop :=
  (∀ (s : State) (c : Nat) (a : Arrival), (∀ l, (s.caseAt c).lockCsn = some l → a.csn ≤ l) →
    (a.csn ≤ (s.caseAt c).baselineCsn → s.attach c a = (s, .oldBaseline)) ∧
    ((s.caseAt c).baselineCsn < a.csn →
      (∀ kept, (s.caseAt c).arrivals.find? (fun x => x.csn == a.csn) = some kept →
        (firstDifference kept a = none → s.attach c a = (s, .oldDuplicate)) ∧
        ∀ field, firstDifference kept a = some field →
          s.attach c a =
            ((s.setCase c { s.caseAt c with flags := { (s.caseAt c).flags with conflict := true } }).logException
              (some c) (some (s.caseAt c).oldCard) (some a.device) (.recordConflict a.csn field), .oldConflict)) ∧
      ((∀ x ∈ (s.caseAt c).arrivals, x.csn ≠ a.csn) → a.csn ≤ (s.caseAt c).baselineCsn + 256 →
        (s.caseAt c).coverage.getLsbD (a.csn - (s.caseAt c).baselineCsn - 1) = true → s.attach c a = (s, .oldDuplicate)))) ∧
  (∀ (k a : Arrival) (agree : ComparedField → Prop),
    (∀ f, agree f ↔ match f with
      | .kind => k.kind = a.kind
      | .deviceTime => k.deviceTime = a.deviceTime
      | .device => k.device = a.device
      | .amount => k.amount = a.amount
      | .balanceAfter => k.balanceAfter = a.balanceAfter
      | .slot => k.slot = a.slot
      | .passAfter => (k.passAfter = none ∧ a.passAfter = none) ∨
          ∃ x y : PassState, k.passAfter = some x ∧ a.passAfter = some y ∧ x.product = y.product ∧ x.cls = y.cls ∧
            x.firstDay = y.firstDay ∧ x.lastDay = y.lastDay ∧ (x.cls = .count → x.rides = y.rides)
      | .ref => k.ref = a.ref) →
    (firstDifference k a = none ↔ ∀ f, agree f) ∧
    ∀ (before after : List ComparedField) (f : ComparedField),
      before ++ f :: after = [.kind, .deviceTime, .device, .amount, .balanceAfter, .slot, .passAfter, .ref] →
      (firstDifference k a = some f ↔ ¬agree f ∧ ∀ g ∈ before, agree g))

/-- R64, R65, R66, R68 to R71: new evidence, whatever the lock (R72, R73). It is kept in a free slot, or in the slot of the
arrival discarded for it, or discarded, or left unattached; a taken record sets its coverage flag, one change count,
CLOCK_DOUBT when UNTIMED, is marked by its class, and places the settle request of its case's state; one left unattached sets
EVIDENCE_LOST and logs POOL_EXHAUSTED, and nothing else. CARD_LOCKED, LOCK_BREACH and the lock CSN stay unless the record is
the block application or lies above a lock CSN; what they become then is stated on its own. Stated for a case with no request
waiting; what a request does that meets one is stated on its own. -/
def Obligations.NewEvidenceFindsRoomOrNot : Prop :=
  ∀ (s : State) (c : Nat) (a : Arrival) (r : CaseRecord), s.tableOk → r = s.caseAt c → r.state ≠ .free →
    r.baselineCsn < a.csn → (∀ x ∈ r.arrivals, x.csn ≠ a.csn) → seen r.coverage r.baselineCsn a.csn = false →
    (∀ w ∈ s.settle.fifo, w.caseNo ≠ c) →
    ∃ t : State, ∃ locked : CaseRecord, t = (s.attach c a).1 ∧ s.sameCasesBut t c ∧
      t = { s with cases := t.cases, poolFree := t.poolFree, settle := t.settle, log := t.log, notices := t.notices } ∧
      locked = { r with
        lockCsn := (t.caseAt c).lockCsn
        flags := { r.flags with
          cardLocked := (t.caseAt c).flags.cardLocked, lockBreach := (t.caseAt c).flags.lockBreach } } ∧
      ((∀ l, r.lockCsn = some l → a.csn ≤ l) → ¬(a.kind = .actionApplied ∧ a.ref = some ⟨c, r.inst, 0⟩) → locked = r) ∧
      (r.arrivals.length < 32 ∧ 0 < s.poolFree ∨ (∃ v, victimOf r.arrivals a = some v) ∨ protectedIn (a :: r.arrivals) a = false →
        (s.attach c a).2 = (match a.cls with | .pre => .oldPre | .post => .oldPost | .untimed => .oldUntimed) ∧
        t.log = s.log ∧ t.notices = s.notices ∧ t.settle.inFlight = s.settle.inFlight ∧
        t.settle.fifo = s.settle.fifo ++
          (match r.state with
            | .collecting => if (∃ tm, r.timing = some tm ∧ tm.earlySettle = true) then [⟨c, .early⟩] else []
            | .issued | .lapsed | .collected => if r.flags.forced then [] else [⟨c, .recompute⟩]
            | .free | .held | .closed | .cancelled => []) ∧
        t.caseAt c = { locked with
          arrivals := (t.caseAt c).arrivals, pruned := (t.caseAt c).pruned
          coverage := cover r.coverage r.baselineCsn a.csn, changeCount := r.changeCount + 1
          flags := { locked.flags with clockDoubt := r.flags.clockDoubt || decide (a.cls = .untimed) } }) ∧
      (r.arrivals.length < 32 ∧ 0 < s.poolFree →
        (t.caseAt c).arrivals = insertArrival r.arrivals a ∧ (t.caseAt c).pruned = r.pruned ∧ t.poolFree = s.poolFree - 1) ∧
      (¬(r.arrivals.length < 32 ∧ 0 < s.poolFree) →
        t.poolFree = s.poolFree ∧
        (∀ v, victimOf r.arrivals a = some v →
          (t.caseAt c).arrivals = insertArrival (removeArrival r.arrivals v.csn) a ∧
          (t.caseAt c).pruned = bumpPruned r.pruned) ∧
        (victimOf r.arrivals a = none → protectedIn (a :: r.arrivals) a = false →
          (t.caseAt c).arrivals = r.arrivals ∧ (t.caseAt c).pruned = bumpPruned r.pruned) ∧
        (victimOf r.arrivals a = none → protectedIn (a :: r.arrivals) a = true →
          (s.attach c a).2 = .oldUnattached ∧ t.settle = s.settle ∧
          t.caseAt c = { locked with flags := { locked.flags with evidenceLost := true } } ∧
          t.log = s.log.write ⟨some c, some r.oldCard, some a.device, s.time.now, .poolExhausted a.csn a.cls⟩))

/-- R67: an arrival is protected exactly when it is the PRE arrival with the highest CSN, the PRE arrival with the highest
CSN carrying some slot, or the first after the report; and at most six of a list are. R69, R66: the arrival discarded is, of
the list's unprotected ones, the POST or UNTIMED one with the highest CSN, and only without such a one the PRE one with the
lowest; none when all are protected. And a coverage set with a flag set counts as seen what it did and that CSN, inside the
span alone. -/
def Obligations.ProtectionDiscardAndCoverage : Prop :=
  (∀ l : List Arrival, l.Pairwise (fun a b => a.csn ≠ b.csn) →
    (∀ a ∈ l, protectedIn l a = true ↔
      (a.cls = .pre ∧ ∀ b ∈ l, b.cls = .pre → b.csn ≤ a.csn) ∨
      (∃ slot : PassSlot, a.cls = .pre ∧ a.slot = some slot ∧ a.passAfter.isSome = true ∧
        ∀ b ∈ l, b.cls = .pre → b.slot = some slot → b.passAfter.isSome = true → b.csn ≤ a.csn) ∨
      (a.cls ≠ .pre ∧ ∀ b ∈ l, b.cls ≠ .pre → a.csn ≤ b.csn)) ∧
    (l.filter (fun a => protectedIn l a)).length ≤ 6) ∧
  ((∀ (l : List Arrival) (a : Arrival),
    (victimOf l a = none ↔ ∀ x ∈ l, protectedIn (a :: l) x = true) ∧
    ∀ v, victimOf l a = some v → v ∈ l ∧ protectedIn (a :: l) v = false ∧
      ((v.cls ≠ .pre ∧ ∀ x ∈ l, protectedIn (a :: l) x = false → x.cls ≠ .pre → x.csn ≤ v.csn) ∨
        (v.cls = .pre ∧ ∀ x ∈ l, protectedIn (a :: l) x = false → x.cls = .pre ∧ v.csn ≤ x.csn))) ∧
  ∀ (cov : BitVec 256) (base csn n : Nat),
    seen (cover cov base csn) base n = true ↔
      seen cov base n = true ∨ (n = csn ∧ base < n ∧ n ≤ base + 256))

/-- R72, R73: an ACTION_APPLIED record naming the block ref, taken as new while CARD_LOCKED is clear, sets CARD_LOCKED and
the lock CSN, and LOCK_BREACH when a kept arrival or a coverage flag lies above it, whatever room it finds; and any record
routed to attachment above a lock CSN sets LOCK_BREACH, whatever its mark. That the kept arrivals are those of the list
before room is found for the record is the model's reading of R73 (DEDUCED, assumption 8). -/
def Obligations.LockOfTheOldCard : Prop :=
  ∀ (s : State) (c : Nat) (a : Arrival) (r : CaseRecord), s.tableOk → r = s.caseAt c → r.state ≠ .free →
    (r.flags.cardLocked = false → r.lockCsn = none → a.kind = .actionApplied → a.ref = some ⟨c, r.inst, 0⟩ →
      r.baselineCsn < a.csn → (∀ x ∈ r.arrivals, x.csn ≠ a.csn) → seen r.coverage r.baselineCsn a.csn = false →
      ((s.attach c a).1.caseAt c).flags.cardLocked = true ∧ ((s.attach c a).1.caseAt c).lockCsn = some a.csn ∧
      (((s.attach c a).1.caseAt c).flags.lockBreach = true ↔ r.flags.lockBreach = true ∨
        (∃ x ∈ r.arrivals, a.csn < x.csn) ∨ ∃ n, a.csn < n ∧ seen r.coverage r.baselineCsn n = true)) ∧
    (∀ l, r.flags.cardLocked = true → r.lockCsn = some l →
      ((s.attach c a).1.caseAt c).lockCsn = some l ∧ ((s.attach c a).1.caseAt c).flags.cardLocked = true ∧
      (((s.attach c a).1.caseAt c).flags.lockBreach = true ↔ r.flags.lockBreach = true ∨ l < a.csn))

/-! ### Collections -/

/-- R131, R132, R128, R22: a COLLECTION. The record of the outstanding generation raises applied by the counted amount,
unpaid and UNDER_APPLIED by what it falls short of the credit, makes each carried slot APPLIED or REFUSED by the mask, clears
the outstanding action, and logs at most one APPLIED_MISMATCH. The reconcile step then runs on the record so counted as in
ISSUED with nothing outstanding: with nothing left desired the case enters COLLECTED. R133: a STALE_COLLECTION raises applied
by the counted amount, makes a named slot that is WANTED or NONE APPLIED, leaves unpaid and UNDER_APPLIED, and is logged. The
reconcile step then runs under the row of the case's state: with nothing outstanding it may issue in ISSUED and COLLECTED and
enter COLLECTED from ISSUED and LAPSED, and in other states it sets overpaid alone. An outstanding action that equals what is
now desired stays; one that differs is first withdrawn, by where it stands: said of a withdrawal that frees no room, or room
that nothing else waits for. In either no other case is touched. R8: a deadline so set that part time has already reached
expires at once. -/
def Obligations.CollectionsAreCounted : Prop :=
  (∀ (s : State) (p : IntakeParcel) (rest : List IntakeParcel) (i : IntakeRecord) (u : UsageRecord) (c : Nat)
    (r counted : CaseRecord) (o : Outstanding) (ref : Ref) (mask : BitVec 4) (amount : Int) (logged : State),
    s.tableOk → s.casesOk → s.disposesNext p rest i → s.intake.effective = true → u = usageRecord i.raw →
    s.lookup u.card = some ⟨u.card, c, .new⟩ → u.kind = some .actionApplied → u.ref = some ref → u.mask = some mask →
    r = s.caseAt c → r.outstanding = some o → ref = ⟨c, r.inst, o.generation⟩ → amount = max u.amount 0 →
    counted = { r with
      applied := min (r.applied + amount) 2000000
      unpaid := if amount < o.credit then min (r.unpaid + (o.credit - amount)) 2000000 else r.unpaid
      outstanding := none, grantStatus := counted.grantStatus
      flags := { r.flags with issueOwed := false, underApplied := r.flags.underApplied || decide (amount < o.credit) } } →
    (∀ slot : PassSlot, counted.grantStatus.get slot =
      if (∃ g ∈ o.grants, g.slot = slot) then (if mask.getLsbD slot.val then .applied else .refused)
      else r.grantStatus.get slot) →
    logged = (if amount ≠ o.credit then
        (s.marked .collection).logException (some c) (some r.newCard) (some u.device)
          (.appliedMismatch o.generation o.credit amount none)
      else if (∃ slot : PassSlot, mask.getLsbD slot.val = true ∧ ∀ g ∈ o.grants, g.slot ≠ slot) then
        (s.marked .collection).logException (some c) (some r.newCard) (some u.device)
          (.appliedMismatch o.generation o.credit amount (some mask))
      else s.marked .collection) →
    ∃ t t' : State, exec .recordDisposition s = .next t' ∧ s.reachedTaken t t' c ∧ s.sameCasesBut t c ∧
      t = { logged with cases := t.cases, actions := t.actions, notices := t.notices } ∧
      logged.reconciledFresh t c counted [] True True ∧
      (t'.caseAt c).applied = counted.applied ∧ (t'.caseAt c).unpaid = counted.unpaid ∧
      (t'.caseAt c).grantStatus = counted.grantStatus ∧ (t'.caseAt c).result = r.result ∧ (t'.caseAt c).wanted = r.wanted ∧
      (t'.caseAt c).arrivals = r.arrivals ∧ (t'.caseAt c).changeCount = r.changeCount ∧ t'.log = logged.log) ∧
  (∀ (s : State) (p : IntakeParcel) (rest : List IntakeParcel) (i : IntakeRecord) (u : UsageRecord) (c : Nat)
    (r counted : CaseRecord) (ref : Ref) (mask : BitVec 4) (logged : State),
    s.tableOk → s.casesOk → s.disposesNext p rest i → s.intake.effective = true → u = usageRecord i.raw →
    s.lookup u.card = some ⟨u.card, c, .new⟩ → u.kind = some .actionApplied → u.ref = some ref → u.mask = some mask →
    r = s.caseAt c → ref.caseNo = c → ref.inst = r.inst → 1 ≤ ref.generation → ref.generation ≤ r.generation →
    (∀ o, r.outstanding = some o → o.generation ≠ ref.generation) →
    counted = { r with applied := min (r.applied + max u.amount 0) 2000000, grantStatus := counted.grantStatus } →
    (∀ slot : PassSlot, counted.grantStatus.get slot =
      if mask.getLsbD slot.val = true ∧ (r.grantStatus.get slot = .wanted ∨ r.grantStatus.get slot = .none) then .applied
      else r.grantStatus.get slot) →
    logged = (s.marked .staleCollection).logException (some c) (some r.newCard) (some u.device)
      (.staleCollection ref.generation (max u.amount 0)) →
    ∃ t, exec .recordDisposition s = .next t ∧
      (t.caseAt c).applied = counted.applied ∧ (t.caseAt c).unpaid = r.unpaid ∧
      (t.caseAt c).flags.underApplied = r.flags.underApplied ∧ (t.caseAt c).grantStatus = counted.grantStatus ∧
      t.log = logged.log ∧ t.intake = logged.intake ∧ t.control = logged.control ∧
      t.settle = s.settle ∧ t.index = s.index ∧ t.poolFree = s.poolFree ∧
      (r.outstanding = none → ∃ v : State, s.reachedTaken v t c ∧ s.sameCasesBut v c ∧
        v = { logged with cases := v.cases, actions := v.actions, notices := v.notices } ∧
        logged.reconciledFresh v c counted [] (r.state = .issued ∨ r.state = .collected)
          (r.state = .issued ∨ r.state = .lapsed)) ∧
      ∀ o : Outstanding, r.outstanding = some o →
        (o.credit = counted.desiredCredit → o.grants = counted.desiredGrants →
          s.sameCasesBut t c ∧ t = { logged with cases := t.cases } ∧
          t.caseAt c = { counted with overpaid := max (counted.applied - r.target - r.unpaid) 0 }) ∧
        (o.credit ≠ counted.desiredCredit ∨ o.grants ≠ counted.desiredGrants →
          ∀ (w : State) (freed : Bool), (w, freed) = (logged.setCase c counted).withdraw c →
          freed = false ∨ (r.owed = ⟨[], false⟩ ∧ ∀ j, j ≠ c → (s.caseAt j).owes = false) →
          ∃ v : State, s.reachedTaken v t c ∧ s.sameCasesBut v c ∧
            v = { w with cases := v.cases, actions := v.actions, notices := v.notices } ∧
            w.reconciledFresh v c (w.caseAt c) [] True True))

/-! ### Case commands -/

/-- R7, R11, R12, R13, R159: an accepted OPEN_CASE takes the lowest FREE record and the next instance, sets the record as
Table 1-1 gives, with the clamped block instant and the row's timing, adds both Card Index entries, places the BLOCK, and
answers the case number and the instance, OK_CLAMPED when the clamp changed the report time. A window end that part time has
already reached expires once the case is open: its FINAL request is placed, and the reply is the same. -/
def Obligations.OpenCaseOpensTheLowestFreeRecord : Prop :=
  ∀ (s : State) (args : List Byte) (a : OpenArgs) (c instant : Nat) (row : OperatorRow) (inst : BitVec 8),
    s.tableOk → s.takes 1 args → readOpenCase args = some a → row = s.activeRow a.operator →
    s.time.clock = .set → row.valid = true → a.oldCard ≠ 0 → a.newCard ≠ 0 → a.inRange → a.oldCard ≠ a.newCard →
    s.lookup a.oldCard = none → s.lookup a.newCard = none → s.rangeBlocked a.newCard = false →
    c < 2048 → (s.caseAt c).state = .free → (∀ d, d < c → (s.caseAt d).state ≠ .free) → s.actions.depth < 256 →
    instant = max (s.time.now - row.maxBackdateDays * 86400) (min a.reportTime s.time.now) →
    inst = (s.caseAt c).inst + 1 →
    ∃ t t' : State, exec .openCase s =
        .next (t'.answered 1 (if instant = a.reportTime then .ok else .okClamped) (.opened c inst)) ∧
      s.reachedTaken t t' c ∧
      t = { s with cases := t.cases, index := t.index, actions := { s.actions with
        untaken := s.actions.untaken ++ [.block ⟨c, inst, 0⟩ a.oldCard a.operator instant] } } ∧
      s.sameCasesBut t c ∧
      t.caseAt c = { CaseRecord.freeWith inst with
        state := .collecting, oldCard := a.oldCard, newCard := a.newCard, operator := a.operator, hostTag := a.hostTag
        feeWaived := a.feeWaived, blockInstant := instant, instantClamped := decide (instant ≠ a.reportTime)
        baselineCsn := a.baselineCsn, baselineBalance := a.baselineBalance, baselinePasses := a.passes
        timing := some ⟨row.windowHours, row.collectionDays, row.tailDays, row.dayOffset, row.earlySettle⟩
        deadline := some ⟨.windowEnd, min (instant + row.windowHours * 3600) 4294967295⟩ } ∧
      ∀ e : IndexEntry, e ∈ t.index ↔ e ∈ s.index ∨ e = ⟨a.oldCard, c, .old⟩ ∨ e = ⟨a.newCard, c, .new⟩

/-- R9, R10: the eight refusals of OPEN_CASE, the first that holds in their order; a refused OPEN_CASE changes nothing. -/
def Obligations.OpenCaseIsRefusedInOrder : Prop :=
  ∀ (s : State) (args : List Byte) (a : OpenArgs) (refused : Status → Prop), s.takes 1 args → readOpenCase args = some a →
    (∀ st, refused st ↔ exec .openCase s = .next (s.answered 1 st .none)) →
    (s.time.clock = .unset → refused .clockUnset) ∧
    (s.time.clock = .set →
      ((s.activeRow a.operator).valid = false → refused .noPolicy) ∧
      ((s.activeRow a.operator).valid = true →
        (a.oldCard = 0 ∨ a.newCard = 0 ∨ ¬a.inRange → refused .badArgument) ∧
        (a.oldCard ≠ 0 → a.newCard ≠ 0 → a.inRange →
          (a.oldCard = a.newCard → refused .sameCard) ∧
          (a.oldCard ≠ a.newCard →
            ((∃ e ∈ s.index, e.card = a.oldCard ∨ e.card = a.newCard) → refused .cardInCase) ∧
            ((∀ e ∈ s.index, e.card ≠ a.oldCard ∧ e.card ≠ a.newCard) →
              (s.rangeBlocked a.newCard = true → refused .blockedTarget) ∧
              (s.rangeBlocked a.newCard = false →
                ((∀ d, d < 2048 → (s.caseAt d).state ≠ .free) → refused .tableFull) ∧
                ((∃ d, d < 2048 ∧ (s.caseAt d).state = .free) → 256 ≤ s.actions.depth → refused .busy)))))))

/-- R2: a case command, or READ_ARRIVALS, whose name fits no standing case is refused NO_SUCH_CASE and changes nothing. -/
def Obligations.WrongNameIsNoSuchCase : Prop :=
  ∀ (s : State) (i : Instr) (code : Byte) (c : Nat) (inst : BitVec 8) (extra : List Byte),
    ((i, code, extra.length) ∈ ([(.cancelCase, 2, 0), (.releaseCase, 3, 0), (.reissue, 5, 0), (.readCase, 6, 0),
      (.readArrivals, 7, 1)] : List (Instr × Byte × Nat))) ∨
      (i = .forceSettle ∧ code = 4 ∧ extra.length = 5 ∧ (extra.getD 4 0 = 0 ∨ extra.getD 4 0 = 1)) →
    c < 65536 → s.takes code (beBytes 2 c ++ inst :: extra) →
    (2048 ≤ c ∨ (s.caseAt c).state = .free ∨ (s.caseAt c).inst ≠ inst) →
    exec i s = .next (s.answered code .noSuchCase .none)

/-- R24: CANCEL_CASE in COLLECTING and HELD, and in ISSUED and LAPSED while nothing is applied. The case is CANCELLED with no
deadline, no outstanding action and ISSUE_OWED clear, and its waiting request is gone; its result, totals, evidence and
baseline stay. Where nothing was outstanding that is all, but for the UNBLOCK, placed or owed; no event is raised. R123: an
outstanding RESTORE that is owed is dropped, an untaken one is removed from the Action Queue, and one taken or sent gives a
WITHDRAW, which goes before the UNBLOCK. What the queue has room for joins its tail in that order, the rest is owed, and
nothing else changes: said, where an untaken RESTORE leaves room, of room that no owing case waits for. -/
def Obligations.CancelCaseEndsTheCase : Prop :=
  ∀ (s : State) (c : Nat) (r : CaseRecord), s.tableOk → s.takesFor 2 c [] → r = s.caseAt c →
    ((r.state = .collecting ∨ r.state = .held) ∨ ((r.state = .issued ∨ r.state = .lapsed) ∧ r.applied = 0 ∧
      ∀ slot : PassSlot, r.grantStatus.get slot ≠ .applied) →
      ∃ t : State, exec .cancelCase s = .next (t.answered 2 .ok .none) ∧
        (t.caseAt c).state = .cancelled ∧ (t.caseAt c).deadline = none ∧ (t.caseAt c).outstanding = none ∧
        (t.caseAt c).flags.issueOwed = false ∧ t.settle.inFlight = s.settle.inFlight ∧
        t.settle.fifo = s.settle.fifo.filter (fun w => w.caseNo != c) ∧
        (t.caseAt c).result = r.result ∧ (t.caseAt c).applied = r.applied ∧ (t.caseAt c).unpaid = r.unpaid ∧
        (t.caseAt c).generation = r.generation ∧ (t.caseAt c).arrivals = r.arrivals ∧ t.index = s.index ∧
        t.poolFree = s.poolFree ∧ t.log = s.log ∧
        (r.outstanding = none →
          s.sameCasesBut t c ∧ t = { s with cases := t.cases, actions := t.actions, settle := t.settle } ∧
          t.caseAt c = { r with
            state := .cancelled, deadline := none, owed := (t.caseAt c).owed
            flags := { r.flags with issueOwed := false } } ∧
          (s.actions.depth < 256 → (t.caseAt c).owed = r.owed ∧
            t.actions = { s.actions with untaken := s.actions.untaken ++ [.unblock ⟨c, r.inst, 0⟩ r.oldCard] }) ∧
          (256 ≤ s.actions.depth → (t.caseAt c).owed = { r.owed with unblock := true } ∧ t.actions = s.actions)) ∧
        (∀ (o : Outstanding) (kept new : List ActionEntry) (untaken : Bool) (room : Nat), r.outstanding = some o →
          untaken = (!r.flags.issueOwed && s.actions.untaken.any (ActionEntry.isRestoreOf ⟨c, r.inst, o.generation⟩)) →
          kept = (if untaken then s.actions.untaken.filter (fun e => !e.isRestoreOf ⟨c, r.inst, o.generation⟩)
            else s.actions.untaken) →
          new = (if untaken || r.flags.issueOwed then [] else [.withdraw ⟨c, r.inst, o.generation⟩ r.newCard]) ++
            [.unblock ⟨c, r.inst, 0⟩ r.oldCard] →
          room = 256 - (s.actions.taken.length + kept.length) →
          (untaken = true → r.owed = ⟨[], false⟩ ∧ ∀ j, j ≠ c → (s.caseAt j).owes = false) →
          s.sameCasesBut t c ∧ t = { s with cases := t.cases, actions := t.actions, settle := t.settle } ∧
          t.caseAt c = { r with
            state := .cancelled, deadline := none, outstanding := none, owed := (t.caseAt c).owed
            flags := { r.flags with issueOwed := false } } ∧
          t.actions = { s.actions with untaken := kept ++ new.take room } ∧
          (t.caseAt c).owed.unblock = (r.owed.unblock || decide (room < new.length)) ∧
          ∀ g, g ∈ (t.caseAt c).owed.withdraws ↔
            g ∈ r.owed.withdraws ∨ (g = o.generation ∧ room = 0 ∧ new.length = 2))) ∧
    (r.state = .collected ∨ r.state = .closed ∨ r.state = .cancelled ∨ ((r.state = .issued ∨ r.state = .lapsed) ∧
      (r.applied ≠ 0 ∨ ∃ slot : PassSlot, r.grantStatus.get slot = .applied)) →
      exec .cancelCase s = .next (s.answered 2 .wrongState .none))

/-- R123, R125: where a RESTORE stands when it is withdrawn. Owed, it is dropped; untaken in the queue, its entry is removed
and no WITHDRAW is placed; taken or sent, a WITHDRAW naming its ref and the new card is placed at the tail, or owed by its
generation, in ascending order, when the queue is full. In every case the outstanding action is absent, ISSUE_OWED is clear
and the generation stays. -/
def Obligations.RestoreIsWithdrawnByWhereItStands : Prop :=
  ∀ (s t : State) (c : Nat) (r : CaseRecord) (o : Outstanding) (freed : Bool), s.tableOk → r = s.caseAt c →
    r.state ≠ .free → r.outstanding = some o → (t, freed) = s.withdraw c →
    s.sameCasesBut t c ∧ t = { s with cases := t.cases, actions := t.actions } ∧
    t.caseAt c = { r with
      outstanding := none, flags := { r.flags with issueOwed := false }, owed := (t.caseAt c).owed } ∧
    (r.flags.issueOwed = true → t.actions = s.actions ∧ (t.caseAt c).owed = r.owed ∧ freed = false) ∧
    (r.flags.issueOwed = false →
      ((∃ e ∈ s.actions.untaken, e.isRestoreOf ⟨c, r.inst, o.generation⟩ = true) →
        t.actions = { s.actions with
          untaken := s.actions.untaken.filter (fun e => !e.isRestoreOf ⟨c, r.inst, o.generation⟩) } ∧
        (t.caseAt c).owed = r.owed ∧ freed = true) ∧
      ((∀ e ∈ s.actions.untaken, e.isRestoreOf ⟨c, r.inst, o.generation⟩ = false) → freed = false ∧
        (s.actions.depth < 256 → (t.caseAt c).owed = r.owed ∧
          t.actions = { s.actions with
            untaken := s.actions.untaken ++ [.withdraw ⟨c, r.inst, o.generation⟩ r.newCard] }) ∧
        (256 ≤ s.actions.depth → t.actions = s.actions ∧ (t.caseAt c).owed.unblock = r.owed.unblock ∧
          (∀ g, g ∈ (t.caseAt c).owed.withdraws ↔ g = o.generation ∨ g ∈ r.owed.withdraws) ∧
          (r.owed.withdraws.Pairwise (· < ·) → (t.caseAt c).owed.withdraws.Pairwise (· < ·)))))

/-- R25, R7, R57: RELEASE_CASE in CLOSED and CANCELLED: both index entries go, every slot of the list returns to the pool,
the waiting request goes, and the record is the hard-reset one under its instance. While the case owes an entry it is refused
BUSY; in any other state, WRONG_STATE. -/
def Obligations.ReleaseCaseFreesTheRecord : Prop :=
  ∀ (s : State) (c : Nat) (r : CaseRecord), s.tableOk → s.takesFor 3 c [] → r = s.caseAt c →
    ((r.state = .closed ∨ r.state = .cancelled) →
      (r.flags.issueOwed = false → r.owed = ⟨[], false⟩ →
        ∃ t : State, exec .releaseCase s = .next (t.answered 3 .ok .none) ∧ s.sameCasesBut t c ∧
          t.caseAt c = CaseRecord.freeWith r.inst ∧
          t = { s with
            cases := t.cases, index := s.index.filter (fun e => e.caseNo != c)
            poolFree := s.poolFree + r.arrivals.length
            settle := { s.settle with fifo := s.settle.fifo.filter (fun w => w.caseNo != c) } }) ∧
      (r.flags.issueOwed = true ∨ r.owed ≠ ⟨[], false⟩ →
        exec .releaseCase s = .next (s.answered 3 .busy .none))) ∧
    (r.state ≠ .closed → r.state ≠ .cancelled → exec .releaseCase s = .next (s.answered 3 .wrongState .none))

/-- R15: FORCE_SETTLE in COLLECTING and HELD under a valid row clamps the basis and places a FORCED request, at the tail of
the FIFO or in the place of the case's waiting one; the state, the flags and the deadline stay. -/
def Obligations.ForceSettlePlacesAForcedRequest : Prop :=
  ∀ (s : State) (c : Nat) (r : CaseRecord) (value basis : Int) (noPasses : Bool),
    s.takesFor 4 c (intBytes value ++ [if noPasses then 1 else 0]) → -2147483648 ≤ value → value ≤ 2147483647 →
    r = s.caseAt c → basis = max (-50000) (min value 1000000) →
    ((r.state = .collecting ∨ r.state = .held) →
      ((s.activeRow r.operator).valid = true → ∀ st, st = (if basis = value then Status.ok else .okClamped) →
        ((∀ w ∈ s.settle.fifo, w.caseNo ≠ c) → exec .forceSettle s = .next (({ s with settle := { s.settle with
          fifo := s.settle.fifo ++ [⟨c, .forced basis noPasses⟩] } } : State).answered 4 st .none)) ∧
        ((∃ w ∈ s.settle.fifo, w.caseNo = c) → exec .forceSettle s = .next (({ s with settle := { s.settle with
          fifo := s.settle.fifo.map (fun w => if w.caseNo = c then ⟨c, .forced basis noPasses⟩ else w) } }
            : State).answered 4 st .none))) ∧
      ((s.activeRow r.operator).valid = false → exec .forceSettle s = .next (s.answered 4 .noPolicy .none))) ∧
    (r.state ∈ [.issued, .lapsed, .collected, .closed, .cancelled] →
      exec .forceSettle s = .next (s.answered 4 .wrongState .none))

/-- R20, R137: REISSUE in LAPSED moves the case to ISSUED and runs the reconcile step there, a deadline so set that part time
has already reached expiring at once (R8); in every other state it is refused WRONG_STATE. -/
def Obligations.ReissueReconcilesALapsedCase : Prop :=
  ∀ (s : State) (c : Nat), s.tableOk → s.casesOk → s.takesFor 5 c [] →
    ((s.caseAt c).state = .lapsed → ∃ t t' : State, exec .reissue s = .next (t'.answered 5 .ok .none) ∧
      s.reachedTaken t t' c ∧
      s.sameCasesBut t c ∧ t = { s with cases := t.cases, actions := t.actions, notices := t.notices } ∧
      s.reconciledFresh t c (s.caseAt c) [] True True) ∧
    ((s.caseAt c).state ≠ .lapsed → exec .reissue s = .next (s.answered 5 .wrongState .none))

/-- R27, R74: READ_CASE carries every field of the record but the arrivals, and their number; READ_ARRIVALS up to eight
arrivals from the start position, each with the roles it holds in the list: anchor, the PRE arrival with the highest CSN; the
slots it protects, those of which it is the PRE arrival with the highest CSN that carries them; p, the POST or UNTIMED
arrival with the lowest CSN. An arrival holds a role exactly when it is protected. A start above 31 is refused BAD_ARGUMENT.
Both change nothing but the reply. -/
def Obligations.CaseReadsCarryTheRecord : Prop :=
  ∀ (s : State) (c : Nat) (r : CaseRecord) (start : Byte), r = s.caseAt c →
    (s.takesFor 6 c [] →
      exec .readCase s = .next (s.answered 6 .ok (.caseRecord c { r with arrivals := [] } r.arrivals.length))) ∧
    (s.takesFor 7 c [start] → start.toNat ≤ 31 → ∃ items : List (Arrival × ArrivalRoles),
      exec .readArrivals s =
        .next (s.answered 7 .ok (.arrivals r.arrivals.length r.changeCount r.pruned start.toNat items)) ∧
      items.map Prod.fst = (r.arrivals.drop start.toNat).take 8 ∧
      (∀ x ∈ items, (x.2.anchor || !x.2.slots.isEmpty || x.2.p) = protectedIn r.arrivals x.1) ∧
      (r.arrivals.Pairwise (fun a b => a.csn ≠ b.csn) → ∀ x ∈ items,
        (x.2.anchor = true ↔ x.1.cls = .pre ∧ ∀ b ∈ r.arrivals, b.cls = .pre → b.csn ≤ x.1.csn) ∧
        (∀ slot : PassSlot, slot ∈ x.2.slots ↔
          x.1.cls = .pre ∧ x.1.slot = some slot ∧ x.1.passAfter.isSome = true ∧
            ∀ b ∈ r.arrivals, b.cls = .pre → b.slot = some slot → b.passAfter.isSome = true → b.csn ≤ x.1.csn) ∧
        (x.2.p = true ↔ x.1.cls ≠ .pre ∧ ∀ b ∈ r.arrivals, b.cls ≠ .pre → x.1.csn ≤ b.csn))) ∧
    (s.takesFor 7 c [start] → 31 < start.toNat → exec .readArrivals s = .next (s.answered 7 .badArgument .none))

/-! ### Settlement -/

/-- R77, Table 4-2: a request joins the tail when the case has none waiting; one that meets a waiting request takes its place
or is dropped. Requests of other cases keep their places. -/
def Obligations.RequestMeetsTheWaitingOne : Prop :=
  ∀ (s : State) (c : Nat) (new : SettleMode) (requeued : Bool),
    ((∀ w ∈ s.settle.fifo, w.caseNo ≠ c) → s.placeRequest ⟨c, new⟩ requeued =
      { s with settle := { s.settle with fifo := s.settle.fifo ++ [⟨c, new⟩] } }) ∧
    ∀ w : SettleRequest, s.settle.fifo.find? (fun w => w.caseNo == c) = some w →
      ((w.mode.applies (s.caseAt c) = false ∨ (new = .final ∧ (w.mode = .early ∨ w.mode = .recompute)) ∨
        ((∃ b np, new = .forced b np) ∧ ¬(requeued = true ∧ ∃ b np, w.mode = .forced b np)) →
        s.placeRequest ⟨c, new⟩ requeued = { s with settle := { s.settle with
          fifo := s.settle.fifo.map (fun x => if x.caseNo = c then ⟨c, new⟩ else x) } }) ∧
      (w.mode.applies (s.caseAt c) = true → ¬(new = .final ∧ (w.mode = .early ∨ w.mode = .recompute)) →
        ¬((∃ b np, new = .forced b np) ∧ ¬(requeued = true ∧ ∃ b np, w.mode = .forced b np)) →
        s.placeRequest ⟨c, new⟩ requeued = s))

/-- R78, R147: with no operation in flight and switch-pending clear, the head request is started: the operation reads the
case's evidence, and the operator's active row for EARLY and FINAL, and for FORCED without captured money. Otherwise nothing
starts. R79: a completion finds its case released, its mode no longer applying, or the change count moved: it is discarded,
and writes nothing into any case; only the last places a request again, of its mode. The operation is no longer in flight. -/
def Obligations.OperationsStartAndAreDiscarded : Prop :=
  (∀ s : State,
    (∀ (req : SettleRequest) (rest : List SettleRequest) (r : CaseRecord), s.settle.fifo = req :: rest →
      s.settle.inFlight = none → s.policy.switchPending = false → r = s.caseAt req.caseNo →
      exec .settleOperationStart s = .next { s with settle := ⟨rest, some
        { caseNo := req.caseNo, inst := r.inst, mode := req.mode, changeCount := r.changeCount
          evidence := ⟨r.arrivals, r.coverage, r.baselineCsn, r.baselineBalance, r.baselinePasses, r.blockInstant,
            r.feeWaived, r.timing, r.money⟩
          row := match req.mode with
            | .early | .final => some (s.activeRow r.operator)
            | .forced _ _ => if r.money = none then some (s.activeRow r.operator) else none
            | .recompute => none }⟩ }) ∧
    (s.settle.fifo = [] ∨ s.settle.inFlight ≠ none ∨ s.policy.switchPending = true →
      exec .settleOperationStart s = .next s)) ∧
  (∀ (s u : State) (op : Operation) (r : CaseRecord), s.settle.inFlight = some op → s.policy.switchPending = false →
    r = s.caseAt op.caseNo → u = { s with settle := { s.settle with inFlight := none } } →
    (r.state = .free ∨ r.inst ≠ op.inst → exec .settlementCompletion s = .next u) ∧
    (r.state ≠ .free → r.inst = op.inst →
      (op.mode.applies r = false → exec .settlementCompletion s = .next u) ∧
      (op.mode.applies r = true → r.changeCount ≠ op.changeCount →
        exec .settlementCompletion s = .next (u.placeRequest ⟨op.caseNo, op.mode⟩ true))))

/-- R84 to R98, R110, R111, R112: a completion of EARLY, FINAL or FORCED mode that writes a result: result, flags, captured
money, wanted grants and statuses are those of the operation, SETTLED is raised, and the reconcile step ends as for a case
with nothing outstanding, a deadline so set that part time has already reached expiring at once. EARLY writes under a valid
row, CONFIRMED, with nothing missing and no hold flag; FINAL under a valid row and no hold flag; FORCED unless it read an
invalid row. The operation's money is the captured one, else its row's. A FORCED result has status FORCED and the basis of
the request, any other the status and basis of stage 1; the grants are those the evidence builds, and none where a FORCED
request asked for no passes. -/
def Obligations.FirstResultIsWritten : Prop :=
  (∀ (s : State) (op : Operation) (r : CaseRecord) (written : CaseRecord), s.tableOk → s.casesOk →
    s.settle.inFlight = some op → s.policy.switchPending = false → r = s.caseAt op.caseNo → r.inst = op.inst →
    op.mode.applies r = true → r.changeCount = op.changeCount →
    (match op.mode with
      | .early => op.rowInvalid = false ∧ op.evidence.status = .confirmed ∧ op.evidence.missing = 0 ∧
          (r.flags.held || op.evidence.mismatch) = false
      | .final => op.rowInvalid = false ∧ (r.flags.held || op.evidence.mismatch) = false
      | .forced _ _ => op.rowInvalid = false
      | .recompute => False) →
    r.writtenBy op written →
    ∃ t t' : State, exec .settlementCompletion s = .next t' ∧ s.reachedTaken t t' op.caseNo ∧ s.sameCasesBut t op.caseNo ∧
      t = { s with
        settle := { s.settle with inFlight := none }, cases := t.cases, actions := t.actions, notices := t.notices } ∧
      s.reconciledFresh t op.caseNo written [.settled op.result.status op.result.target] True True) ∧
  ∀ op : Operation,
    (∀ m, op.evidence.money = some m → op.money = m) ∧
    (∀ row, op.evidence.money = none → op.row = some row →
      op.money = ⟨row.fee, row.purseMax, row.gapPolicy, row.minCarryDays⟩) ∧
    (∀ basis noPasses, op.mode = .forced basis noPasses →
      op.result = purseResult .forced basis op.money op.evidence.feeWaived ∧
      op.result.status = .forced ∧ op.result.basis = basis ∧
      op.grants = if noPasses then [] else
        ([0, 1, 2, 3] : List PassSlot).filterMap (fun slot => (op.evidence.slotGrant op.money slot).1)) ∧
    ((∀ basis noPasses, op.mode ≠ .forced basis noPasses) →
      op.result = purseResult op.evidence.status (op.evidence.basis op.money.gapPolicy) op.money op.evidence.feeWaived ∧
      op.result.status = op.evidence.status ∧ op.result.basis = op.evidence.basis op.money.gapPolicy ∧
      op.grants = ([0, 1, 2, 3] : List PassSlot).filterMap (fun slot => (op.evidence.slotGrant op.money slot).1))

/-- R85, R91, R92, R95, R5: the completions that write no result. EARLY leaves the case as it is but for a MISMATCH it found;
FINAL holds the case for its hold flags and an invalid row; FORCED under an invalid row holds it for NO_POLICY alone. -/
def Obligations.CompletionWithoutAResult : Prop :=
  ∀ (s : State) (op : Operation) (r checked : CaseRecord), s.tableOk →
    s.settle.inFlight = some op → s.policy.switchPending = false → r = s.caseAt op.caseNo → r.inst = op.inst →
    op.mode.applies r = true → r.changeCount = op.changeCount →
    checked = { r with flags := { r.flags with mismatch := r.flags.mismatch || op.evidence.mismatch } } →
    ∀ outcome : CaseRecord → List EventDetail → Prop,
      (∀ r' ds, outcome r' ds ↔ ∃ t : State, exec .settlementCompletion s = .next t ∧ s.sameCasesBut t op.caseNo ∧
        t.caseAt op.caseNo = r' ∧ t = { s with
          settle := { s.settle with inFlight := none }, cases := t.cases, notices := s.noticesAfter op.caseNo r ds }) →
      (op.mode = .early → op.rowInvalid = true ∨ op.evidence.status ≠ .confirmed ∨ op.evidence.missing ≠ 0 ∨
        checked.flags.held = true → outcome checked []) ∧
      (op.mode = .final → op.rowInvalid = true ∨ checked.flags.held = true → ∀ reasons : HoldReasons,
        reasons = ⟨checked.flags.conflict, checked.flags.mismatch, checked.flags.lockBreach, checked.flags.evidenceLost,
          op.rowInvalid, false⟩ →
        outcome { checked with state := .held, deadline := none, holdReasons := reasons } [.held reasons]) ∧
      ((∃ b np, op.mode = .forced b np) → op.rowInvalid = true →
        outcome { r with state := .held, deadline := none, holdReasons := ⟨false, false, false, false, true, false⟩ }
          [.held ⟨false, false, false, false, true, false⟩])

/-- R98, R99, R126, R127, R128, R129: a RECOMPUTE completion writes a full result. When T and the wanted grants are unchanged
it raises nothing, and the Action Queue stays. When one changed, ADJUSTED is raised with the change of T, whatever the state
of the case, and the reconcile step runs. With nothing outstanding it may issue in ISSUED and COLLECTED and enter COLLECTED
from ISSUED and LAPSED. An outstanding action that equals what is now desired stays; one that differs is first withdrawn, by
where it stands, and then the next generation is issued or, with nothing desired, the case enters COLLECTED: said of a
withdrawal that frees no room, or room that nothing else waits for. A deadline so set that part time has already reached
expires at once. -/
def Obligations.RecomputeWritesAResult : Prop :=
  ∀ (s : State) (op : Operation) (r written : CaseRecord) (c : Nat) (change : Int), s.tableOk → s.casesOk → c = op.caseNo →
    s.settle.inFlight = some op → s.policy.switchPending = false → r = s.caseAt c → r.inst = op.inst →
    op.mode = .recompute → r.state ∈ [.issued, .lapsed, .collected] → r.flags.forced = false →
    r.changeCount = op.changeCount → r.writtenBy op written → change = op.result.target - r.target →
    ∃ t : State, exec .settlementCompletion s = .next t ∧
      (t.caseAt c).result = some op.result ∧ (t.caseAt c).wanted = op.grants ∧
      (t.caseAt c).flags.mismatch = (r.flags.mismatch || op.evidence.mismatch) ∧
      (t.caseAt c).flags.clip = (r.flags.clip || decide (0 < op.result.excess)) ∧
      (t.caseAt c).applied = r.applied ∧ (t.caseAt c).unpaid = r.unpaid ∧
      t.settle = { s.settle with inFlight := none } ∧ t.log = s.log ∧ t.index = s.index ∧ t.poolFree = s.poolFree ∧
      (op.result.target = r.target → op.grants = r.wanted →
        t.caseAt c = written ∧ t = { s with settle := t.settle, cases := t.cases } ∧ s.sameCasesBut t c) ∧
      (op.result.target ≠ r.target ∨ op.grants ≠ r.wanted →
        (s.notices.taken.length + s.notices.untaken.length < 64 → ∃ later : List CaseEvent,
          t.notices.untaken = s.notices.untaken ++ ⟨c, r.inst, r.hostTag, s.time.now, .adjusted change⟩ :: later) ∧
        (r.outstanding = none → ∃ u : State, s.reachedTaken u t c ∧ s.sameCasesBut u c ∧
          u = { s with settle := t.settle, cases := u.cases, actions := u.actions, notices := u.notices } ∧
          s.reconciledFresh u c written [.adjusted change] (r.state = .issued ∨ r.state = .collected)
            (r.state = .issued ∨ r.state = .lapsed)) ∧
        ∀ o : Outstanding, r.outstanding = some o →
          (o.credit = written.desiredCredit → o.grants = written.desiredGrants →
            s.sameCasesBut t c ∧ t = { s with settle := t.settle, cases := t.cases, notices := t.notices } ∧
            t.caseAt c = { written with overpaid := max (r.applied - op.result.target - r.unpaid) 0 } ∧
            t.notices = s.noticesAfter c r [.adjusted change]) ∧
          (o.credit ≠ written.desiredCredit ∨ o.grants ≠ written.desiredGrants →
            ∀ (w : State) (freed : Bool), (w, freed) = (s.setCase c written).withdraw c →
            freed = false ∨ (r.owed = ⟨[], false⟩ ∧ ∀ j, j ≠ c → (s.caseAt j).owes = false) →
            ∃ u : State, s.reachedTaken u t c ∧ w.sameCasesBut u c ∧
              u = { w with settle := t.settle, cases := u.cases, actions := u.actions, notices := u.notices } ∧
              w.reconciledFresh u c (w.caseAt c) [.adjusted change] True True))

/-! ### The purse and the passes -/

/-- R81, R82, R83, and stage 1 (R84 to R87). The anchor is the PRE arrival with the highest CSN, else the baseline; p is the
POST or UNTIMED arrival with the lowest CSN, and the balance before it is exact; the missing set and the purse gaps are the
CSNs of their bounds that are not seen. CONFIRMED and UNCONFIRMED take the anchor balance, and only CONFIRMED can find a
mismatch; GAP_RESOLVED takes the larger or the smaller of the anchor balance and the balance before p, clamped, by the gap
policy. -/
def Obligations.EvidenceGivesTheBasis : Prop :=
  ∀ e : Evidence, e.arrivals.Pairwise (fun a b => a.csn < b.csn) → (∀ a ∈ e.arrivals, e.baselineCsn < a.csn) →
    (∀ a ∈ e.arrivals, a.cls = .pre → (∀ b ∈ e.arrivals, b.cls = .pre → b.csn ≤ a.csn) →
      e.anchorBalance = a.balanceAfter ∧ e.anchorCsn = a.csn) ∧
    ((∀ a ∈ e.arrivals, a.cls ≠ .pre) → e.anchorBalance = e.baselineBalance ∧ e.anchorCsn = e.baselineCsn) ∧
    (∀ p ∈ e.arrivals, p.cls ≠ .pre → (∀ b ∈ e.arrivals, b.cls ≠ .pre → p.csn ≤ b.csn) →
      p.balanceBefore = p.balanceAfter - p.amount ∧
      e.missing = ((Finset.Ioo e.baselineCsn p.csn).filter (fun n => seen e.coverage e.baselineCsn n = false)).card ∧
      e.purseGaps = ((Finset.Ioo e.baselineCsn p.csn).filter
        (fun n => e.anchorCsn < n ∧ seen e.coverage e.baselineCsn n = false)).card ∧
      (e.purseGaps = 0 → e.status = .confirmed ∧ (∀ g, e.basis g = e.anchorBalance) ∧
        (e.mismatch = true ↔ p.balanceBefore ≠ e.anchorBalance)) ∧
      (e.purseGaps ≠ 0 → e.status = .gapResolved ∧ e.mismatch = false ∧
        e.basis .holder = max (-50000) (min (max e.anchorBalance p.balanceBefore) 1000000) ∧
        e.basis .operator = max (-50000) (min (min e.anchorBalance p.balanceBefore) 1000000))) ∧
    ((∀ p ∈ e.arrivals, p.cls = .pre) →
      e.missing = ((Finset.Ioo e.baselineCsn e.anchorCsn).filter
        (fun n => seen e.coverage e.baselineCsn n = false)).card ∧
      e.purseGaps = 0 ∧ e.status = .unconfirmed ∧ e.mismatch = false ∧ ∀ g, e.basis g = e.anchorBalance)

/-- R88, R89, and the clip of R90: the fee is taken once, unless waived, whatever the status; below zero the target is 0 and
the shortfall what is missing; above the purse maximum the target is the maximum and the excess what is over. With a basis of
−50,000..1,000,000, a fee of at most 10,000 and a maximum of at least 100, N, S and X keep the ranges of Table 4-3. -/
def Obligations.FeeFloorAndClip : Prop :=
  ∀ (st : ResultStatus) (b : Int) (m : MoneyTerms) (waived : Bool) (n : Int) (res : Result),
    n = b - (if waived then 0 else (m.fee : Int)) → res = purseResult st b m waived →
    res.basis = b ∧ res.status = st ∧
    (n < 0 → res.target = 0 ∧ res.shortfall = -n ∧ res.excess = 0) ∧
    (0 ≤ n → res.shortfall = 0 ∧
      ((m.purseMax : Int) < n → res.target = m.purseMax ∧ res.excess = n - m.purseMax) ∧
      (n ≤ m.purseMax → res.target = n ∧ res.excess = 0)) ∧
    (0 ≤ res.target ∧ res.target ≤ m.purseMax) ∧
    (-50000 ≤ b → b ≤ 1000000 → m.fee ≤ 10000 → 100 ≤ m.purseMax →
      -60000 ≤ n ∧ n ≤ 1000000 ∧ 0 ≤ res.shortfall ∧ res.shortfall ≤ 60000 ∧ 0 ≤ res.excess ∧ res.excess ≤ 999900)

/-- R102 to R109, R111: the grant of a slot. Its source is the PRE arrival with the highest CSN that carries the slot, else
the baseline's pass. R100, R102: a slot without a source, or whose source has product 0, a first day after its last or, for
COUNT, more than 1,000 rides, is granted nothing. A PERIOD pass that has not started is granted as it is; one that has is
granted its remaining days after the block day, unless they are none or fewer than min carry days, and at most 366; a COUNT
pass not past its last day is granted its rides, less under OPERATOR the unseen CSNs between its source and p or the anchor.
-/
def Obligations.SlotGrantIsBuilt : Prop :=
  (∀ (e : Evidence) (m : MoneyTerms) (slot : PassSlot) (pass : PassState) (csn : Nat) (day : Int),
    e.arrivals.Pairwise (fun a b => a.csn < b.csn) → (∀ a ∈ e.arrivals, e.baselineCsn < a.csn) →
    (∃ a ∈ e.arrivals, a.cls = .pre ∧ a.slot = some slot ∧ a.passAfter = some pass ∧ a.csn = csn ∧
        ∀ b ∈ e.arrivals, b.cls = .pre → b.slot = some slot → b.passAfter.isSome = true → b.csn ≤ csn) ∨
      ((∀ a ∈ e.arrivals, a.cls = .pre → a.slot = some slot → a.passAfter = none) ∧
        e.baselinePass slot = some pass ∧ csn = e.baselineCsn) →
    day = ((e.blockInstant : Int) - ((e.timing.map Timing.dayOffset).getD 0)) / 86400 →
    (pass.product = 0 ∨ pass.lastDay < pass.firstDay ∨ (pass.cls = .count ∧ 1000 < pass.rides) →
      e.slotGrant m slot = (none, false)) ∧
    (1 ≤ pass.product → pass.firstDay ≤ pass.lastDay → (pass.cls = .count → pass.rides ≤ 1000) →
      (pass.cls = .period → day < pass.firstDay →
        e.slotGrant m slot = (some ⟨slot, pass.product, .dated pass.firstDay pass.lastDay⟩, false)) ∧
      (pass.cls = .period → pass.firstDay ≤ day →
        (pass.lastDay - day ≤ 0 ∨ pass.lastDay - day < m.minCarryDays → e.slotGrant m slot = (none, false)) ∧
        (0 < pass.lastDay - day → m.minCarryDays ≤ pass.lastDay - day → e.slotGrant m slot =
          (some ⟨slot, pass.product, .duration (min (pass.lastDay - day).toNat 366)⟩, decide (366 < pass.lastDay - day)))) ∧
      (pass.cls = .count → (pass.lastDay : Int) < day → e.slotGrant m slot = (none, false)) ∧
      (pass.cls = .count → day ≤ pass.lastDay → ∀ reduction : Nat,
        reduction = (match m.gapPolicy with
          | .holder => 0
          | .operator => ((Finset.Ioo csn ((firstAfter e.arrivals).elim e.anchorCsn Arrival.csn)).filter
              (fun n => seen e.coverage e.baselineCsn n = false)).card) →
        (pass.rides ≤ reduction → e.slotGrant m slot = (none, false)) ∧
        (reduction < pass.rides → e.slotGrant m slot =
          (some ⟨slot, pass.product, .rides (pass.rides - reduction) pass.lastDay⟩, false))))) ∧
  ∀ (e : Evidence) (m : MoneyTerms) (slot : PassSlot),
    (∀ a ∈ e.arrivals, a.cls = .pre → a.slot = some slot → a.passAfter = none) → e.baselinePass slot = none →
    e.slotGrant m slot = (none, false)

/-! ### Deadlines, time and action parcels -/

/-- R154, R155, R156, R161: SET_TIME takes 8,640,000 and above, and makes the clock SET; a lower value is refused. At the end
of a second part time advances by one while the clock is SET, holds at its highest value, and stands while the clock is
UNSET. Neither touches anything else. -/
def Obligations.PartTimeIsSetAndAdvances : Prop :=
  ∀ s : State,
    (∀ v : Nat, v < 4294967296 → s.takes 15 (beBytes 4 v) →
      (v < 8640000 → exec .setTime s = .next (s.answered 15 .badArgument .none)) ∧
      (8640000 ≤ v → exec .setTime s = .next (({ s with time := ⟨.set, v⟩ } : State).answered 15 .ok .none))) ∧
    (s.time.clock = .set → s.time.now < 4294967295 →
      exec .partTimeAdvance s = .next { s with time := ⟨.set, s.time.now + 1⟩ }) ∧
    (s.time.clock = .unset ∨ 4294967295 ≤ s.time.now → exec .partTimeAdvance s = .next s)

/-- R8, R13, R18, R23, R28, R136: the expiry of the lowest-numbered case whose deadline part time has reached; that no
higher-numbered case expires first is the model's reading of R8 (assumption 6). A window end places a FINAL request, as it
meets a waiting one; a collection deadline withdraws the RESTORE and makes the case LAPSED with a LAPSED event; a tail end
makes it CLOSED with a CLOSED event. A lapse with nothing outstanding reports generation 0, the model's choice (DESIGN
CHOICE, assumption 19). In each the deadline is absent afterwards, and no case's expiry of another kind happens. -/
def Obligations.DeadlinesExpire : Prop :=
  ∀ (s : State) (c : Nat) (r : CaseRecord) (d : Deadline), s.tableOk → s.casesOk → r = s.caseAt c →
    r.deadline = some d → d.due ≤ s.time.now →
    (∀ j, j < c → ∀ x, (s.caseAt j).deadline = some x → s.time.now < x.due) →
    (d.kind = .windowEnd →
      exec .windowEndExpiry s = .next ((s.setCase c { r with deadline := none }).placeRequest ⟨c, .final⟩ false) ∧
      exec .collectionDeadlineExpiry s = .next s ∧ exec .tailEndExpiry s = .next s) ∧
    (d.kind = .collection →
      exec .windowEndExpiry s = .next s ∧ exec .tailEndExpiry s = .next s ∧
      (r.outstanding = none → ∃ t : State, exec .collectionDeadlineExpiry s = .next t ∧ s.sameCasesBut t c ∧
        t.caseAt c = { r with state := .lapsed, deadline := none } ∧
        t = { s with cases := t.cases, notices := s.noticesAfter c r [.lapsed 0] }) ∧
      (∀ (o : Outstanding) (u : State) (freed : Bool), r.outstanding = some o →
        (u, freed) = (s.setCase c { r with deadline := none }).withdraw c →
        freed = false ∨ (∀ j, (u.caseAt j).owes = false) →
        ∃ t : State, exec .collectionDeadlineExpiry s = .next t ∧ u.sameCasesBut t c ∧
          t.caseAt c = { u.caseAt c with state := .lapsed } ∧
          t = { u with cases := t.cases, notices := s.noticesAfter c r [.lapsed o.generation] })) ∧
    (d.kind = .tailEnd →
      exec .windowEndExpiry s = .next s ∧ exec .collectionDeadlineExpiry s = .next s ∧
      ∃ t : State, exec .tailEndExpiry s = .next t ∧ s.sameCasesBut t c ∧
        t.caseAt c = { r with state := .closed, deadline := none } ∧
        t = { s with cases := t.cases, notices := s.noticesAfter c r [.closed r.overpaid] })

/-- R124, R122: with the Device Port link UP and no action parcel being sent, up to 16 entries at the head are taken into
one. When its frame has left they leave the queue and the sequence advances by one, modulo 65,536; while no case owes an
entry that is all. R122: at the end of the event that freed room, the owing cases are served from the lowest case number on,
as far as the queue admits. A CLOSED or CANCELLED case that alone owes has its WITHDRAWs admitted in the order it owes them,
then its UNBLOCK; of several that each owe an UNBLOCK, the lower case number comes first. An ISSUED case that alone owes has
its WITHDRAWs admitted, then its RESTORE below a depth of 192: ISSUE_OWED is then clear and the collection deadline starts,
unless one is running; at 192 or more the RESTORE stays owed. An entry admitted joins the tail, and its case owes it no more.
-/
def Obligations.ActionParcelsAndOwedEntries : Prop :=
  (∀ s : State,
    (s.dp.link = .up → s.actions.taken = [] → exec .actionParcelStart s = .next { s with
      actions := ⟨s.actions.untaken.take 16, s.actions.untaken.drop 16, s.actions.seq⟩ }) ∧
    (s.dp.link = .down ∨ s.actions.taken ≠ [] → exec .actionParcelStart s = .next s) ∧
    (s.actions.taken = [] → exec .actionParcelSent s = .next s) ∧
    (s.actions.taken ≠ [] → (∀ c, (s.caseAt c).owes = false) →
      exec .actionParcelSent s = .next { s with actions := ⟨[], s.actions.untaken, s.actions.seq + 1⟩ })) ∧
  (∀ (s : State) (c : Nat) (r : CaseRecord) (owed : List ActionEntry) (room : Nat), s.tableOk → s.casesOk → r = s.caseAt c →
    (r.state = .closed ∨ r.state = .cancelled) → r.owed ≠ ⟨[], false⟩ → s.actions.taken ≠ [] →
    room = 256 - s.actions.untaken.length → 0 < room → (∀ j, j ≠ c → (s.caseAt j).owes = false) →
    owed = r.owed.withdraws.map (fun g => .withdraw ⟨c, r.inst, g⟩ r.newCard) ++
      (if r.owed.unblock then [.unblock ⟨c, r.inst, 0⟩ r.oldCard] else []) →
    ∃ t : State, exec .actionParcelSent s = .next t ∧ s.sameCasesBut t c ∧
      t.caseAt c = { r with
        owed := ⟨r.owed.withdraws.drop room, r.owed.unblock && decide (room ≤ r.owed.withdraws.length)⟩
        overpaid := max (r.applied - r.target - r.unpaid) 0 } ∧
      t = { s with cases := t.cases, actions := ⟨[], s.actions.untaken ++ owed.take room, s.actions.seq + 1⟩ }) ∧
  (∀ (s : State) (owing : List Nat) (room : Nat), s.tableOk → s.casesOk → s.actions.taken ≠ [] →
    owing = (List.range 2048).filter (fun j => (s.caseAt j).owes) → room = 256 - s.actions.untaken.length →
    (∀ j ∈ owing, (s.caseAt j).owed = ⟨[], true⟩ ∧ ((s.caseAt j).state = .closed ∨ (s.caseAt j).state = .cancelled)) →
    ∃ t : State, exec .actionParcelSent s = .next t ∧
      t = { s with cases := t.cases, actions := ⟨[], s.actions.untaken ++ (owing.take room).map (fun j =>
        .unblock ⟨j, (s.caseAt j).inst, 0⟩ (s.caseAt j).oldCard), s.actions.seq + 1⟩ } ∧
      ∀ j, t.caseAt j = if j ∈ owing.take room then
          { s.caseAt j with
            owed := ⟨[], false⟩
            overpaid := max ((s.caseAt j).applied - (s.caseAt j).target - (s.caseAt j).unpaid) 0 }
        else s.caseAt j) ∧
  (∀ (s : State) (c : Nat) (r : CaseRecord) (o : Outstanding) (ws : List Nat) (depth : Nat), s.tableOk → s.casesOk →
    r = s.caseAt c → r.state = .issued → r.flags.issueOwed = true → r.outstanding = some o →
    o.credit = r.desiredCredit → o.grants = r.desiredGrants → r.owed = ⟨ws, false⟩ → s.actions.taken ≠ [] →
    (∀ j, j ≠ c → (s.caseAt j).owes = false) → depth = s.actions.untaken.length + ws.length →
    (192 ≤ depth → ws = [] → exec .actionParcelSent s =
      .next { s with actions := ⟨[], s.actions.untaken, s.actions.seq + 1⟩ }) ∧
    (192 ≤ depth → ws ≠ [] → depth ≤ 256 → ∃ t : State, exec .actionParcelSent s = .next t ∧ s.sameCasesBut t c ∧
      t.caseAt c = { r with owed := ⟨[], false⟩, overpaid := max (r.applied - r.target - r.unpaid) 0 } ∧
      t = { s with cases := t.cases, actions := ⟨[], s.actions.untaken ++
        ws.map (fun g => .withdraw ⟨c, r.inst, g⟩ r.newCard), s.actions.seq + 1⟩ }) ∧
    (depth < 192 → ∃ t t' : State, exec .actionParcelSent s = .next t' ∧ s.reachedTaken t t' c ∧ s.sameCasesBut t c ∧
      t.caseAt c = { r with
        owed := ⟨[], false⟩, flags := { r.flags with issueOwed := false }
        deadline := some (r.collectionDeadline.getD
          (s.daysAhead .collection ((r.timing.map Timing.collectionDays).getD 0)))
        overpaid := max (r.applied - r.target - r.unpaid) 0 } ∧
      t = { s with cases := t.cases, actions := ⟨[], s.actions.untaken ++
        ws.map (fun g => .withdraw ⟨c, r.inst, g⟩ r.newCard) ++
        [.restore ⟨c, r.inst, o.generation⟩ r.newCard o.credit o.grants], s.actions.seq + 1⟩ }))

/-! ### The table window, the banks, intercept -/

/-- R170: SEEK. A row above its table's last row is refused BAD_ARGUMENT; in patch mode SEEK is refused PATCH_ACTIVE;
otherwise the cursor takes the table and row, the latch stays, and the reply carries OK and the cursor. -/
def Obligations.SeekMovesTheCursor : Prop :=
  (∀ (s : State) (target : Cursor), s.takes 8 (beBytes 1 target.table ++ beBytes 2 target.row) →
    (s.control.window.saved.isSome = true →
      exec .seek s = .next (s.answered 8 .patchActive (.cursor s.control.window.cursor))) ∧
    (s.control.window.saved = none →
      exec .seek s = .next (({ s with control := { s.control with
        window := { s.control.window with cursor := target } } } : State).answered 8 .ok (.cursor target)))) ∧
  ∀ (s : State) (table row : Nat), s.takes 8 (beBytes 1 table ++ beBytes 2 row) → row < 65536 →
    (4 ≤ table ∧ table < 256) ∨ ((table = 0 ∨ table = 1) ∧ 64 ≤ row) ∨ (table = 2 ∧ 32 ≤ row) ∨ (table = 3 ∧ 2048 ≤ row) →
    exec .seek s = .next (s.answered 8 .badArgument .none)

/-- R171, R173, R169: GET replies with the latch as it stood, loads it with the cursor row and its origin, and advances the
cursor outside patch mode, except on the last row. PATCH_BEGIN saves the cursor and PATCH_END returns it; each is refused in
the other's mode. That these refusals carry the cursor is the model's reading of R191 (DEDUCED, assumption 22). -/
def Obligations.GetAndPatchMode : Prop :=
  ∀ (s : State) (w : TableWindow), w = s.control.window →
    (s.takes 9 [] → ∀ (content : RowContent) (next : Cursor),
      content = (match w.cursor with
        | .policyStandby row => .policy (match s.policy.active with | .a => s.policy.bankB[row] | .b => s.policy.bankA[row])
        | .policyActive row => .policy (match s.policy.active with | .a => s.policy.bankA[row] | .b => s.policy.bankB[row])
        | .blockRanges row => .range s.ranges[row]
        | .caseDirectory row => .directory ⟨(s.caseAt row).state, (s.caseAt row).inst, (s.caseAt row).oldCard,
            (s.caseAt row).newCard, (s.caseAt row).operator, (s.caseAt row).hostTag⟩) →
      next.table = w.cursor.table → next.row = (if w.saved.isSome = true ∨
          w.cursor.row = (match w.cursor with
            | .policyStandby _ => 63 | .policyActive _ => 63 | .blockRanges _ => 31 | .caseDirectory _ => 2047)
        then w.cursor.row else w.cursor.row + 1) →
      exec .get s = .next (({ s with control := { s.control with
        window := { w with latch := some ⟨content, w.cursor⟩, cursor := next } } } : State).answered
          9 .ok (.latch w.latch next))) ∧
    (s.takes 11 [] →
      (w.saved = none → exec .patchBegin s = .next (({ s with control := { s.control with
        window := { w with saved := some w.cursor } } } : State).answered 11 .ok (.cursor w.cursor))) ∧
      (w.saved.isSome = true → exec .patchBegin s = .next (s.answered 11 .patchActive (.cursor w.cursor)))) ∧
    (s.takes 12 [] →
      (∀ saved, w.saved = some saved → exec .patchEnd s = .next (({ s with control := { s.control with
        window := { w with cursor := saved, saved := none } } } : State).answered 12 .ok (.cursor saved))) ∧
      (w.saved = none → exec .patchEnd s = .next (s.answered 12 .notPatching (.cursor w.cursor))))

/-- R168, R143: the window changes only through SEEK, GET, PUT, PATCH_BEGIN, PATCH_END, SOFT_RESET and hard reset; the rows
of the active bank change only by a switch and by the resets, so that no other command touches what settlement reads. -/
def Obligations.OnlyTheirCommandsChangeWindowAndBanks : Prop :=
  ∀ (c : Instr) (s t : State), exec c s = .next t →
    (c ∉ ([.seek, .get, .put, .patchBegin, .patchEnd, .softReset, .hardReset] : List Instr) →
      t.control.window = s.control.window) ∧
    (c ∉ ([.put, .switchPolicy, .settlementCompletion, .hardReset, .initializationEnd] : List Instr) → t.policy = s.policy) ∧
    (c = .put → t.policy.active = s.policy.active ∧ t.policy.switchPending = s.policy.switchPending ∧
      ∀ op : Operator, t.activeRow op = s.activeRow op) ∧
    (c = .switchPolicy ∨ c = .settlementCompletion → t.policy.bankA = s.policy.bankA ∧ t.policy.bankB = s.policy.bankB)

/-- R172, R143, R144, R151, R169: a PUT on a read-only cursor table is refused READ_ONLY, and one that names another table
than the cursor's BAD_ARGUMENT, and neither changes anything. A taken one writes the cursor row and advances the cursor,
OK_CLAMPED when something was held: of an operator row only the fields out of range are held; a block range row is held
whole. -/
def Obligations.PutWritesTheCursorRow : Prop :=
  ∀ (s : State) (args : List Byte) (put : PutArgs), s.takes 10 args → readPut args = some put →
    ((∃ row, s.control.window.cursor = .policyActive row) ∨ (∃ row, s.control.window.cursor = .caseDirectory row) →
      exec .put s = .next (s.answered 10 .readOnly (.cursor s.control.window.cursor))) ∧
    ((∃ row, s.control.window.cursor = .policyStandby row) → (∀ v, put ≠ .policyStandby v) →
      exec .put s = .next (s.answered 10 .badArgument (.cursor s.control.window.cursor))) ∧
    ((∃ row, s.control.window.cursor = .blockRanges row) → (∀ v, put ≠ .blockRanges v) →
      exec .put s = .next (s.answered 10 .badArgument (.cursor s.control.window.cursor))) ∧
    (∀ row v, s.control.window.cursor = .policyStandby row → put = .policyStandby v → ∃ t : State,
      exec .put s = .next (t.answered 10 (if (t.standbyRow row).rangeHeld then .okClamped else .ok)
        (.cursor t.control.window.cursor)) ∧
      t = { s with policy := t.policy, control := { s.control with
        window := { s.control.window with cursor := .policyStandby (if row = 63 then row else row + 1) } } } ∧
      (∀ op, op ≠ row → t.standbyRow op = s.standbyRow op) ∧ (∀ op, t.activeRow op = s.activeRow op) ∧
      (t.standbyRow row).valid = (if v.valid ≤ 1 then decide (v.valid = 1) else (s.standbyRow row).valid) ∧
      (t.standbyRow row).fee = (if v.fee ≤ 10000 then v.fee else (s.standbyRow row).fee) ∧
      ((t.standbyRow row).purseMax : Int) =
        (if 100 ≤ v.purseMax ∧ v.purseMax ≤ 500000 then v.purseMax else (s.standbyRow row).purseMax) ∧
      (t.standbyRow row).gapPolicy = (if v.gapPolicy = 0 then .holder else if v.gapPolicy = 1 then .operator
        else (s.standbyRow row).gapPolicy) ∧
      (t.standbyRow row).windowHours =
        (if 1 ≤ v.windowHours ∧ v.windowHours ≤ 336 then v.windowHours else (s.standbyRow row).windowHours) ∧
      (t.standbyRow row).collectionDays =
        (if 1 ≤ v.collectionDays ∧ v.collectionDays ≤ 90 then v.collectionDays else (s.standbyRow row).collectionDays) ∧
      (t.standbyRow row).tailDays = (if v.tailDays ≤ 60 then v.tailDays else (s.standbyRow row).tailDays) ∧
      (t.standbyRow row).dayOffset = (if v.dayOffset ≤ 86399 then v.dayOffset else (s.standbyRow row).dayOffset) ∧
      (t.standbyRow row).minCarryDays =
        (if v.minCarryDays ≤ 30 then v.minCarryDays else (s.standbyRow row).minCarryDays) ∧
      (t.standbyRow row).maxBackdateDays = (if 1 ≤ v.maxBackdateDays ∧ v.maxBackdateDays ≤ 60 then v.maxBackdateDays
        else (s.standbyRow row).maxBackdateDays) ∧
      (t.standbyRow row).earlySettle =
        (if v.earlySettle ≤ 1 then decide (v.earlySettle = 1) else (s.standbyRow row).earlySettle) ∧
      ((t.standbyRow row).rangeHeld = false ↔ v.valid ≤ 1 ∧ v.fee ≤ 10000 ∧ 100 ≤ v.purseMax ∧ v.purseMax ≤ 500000 ∧
        v.gapPolicy ≤ 1 ∧ 1 ≤ v.windowHours ∧ v.windowHours ≤ 336 ∧ 1 ≤ v.collectionDays ∧ v.collectionDays ≤ 90 ∧
        v.tailDays ≤ 60 ∧ v.dayOffset ≤ 86399 ∧ v.minCarryDays ≤ 30 ∧ 1 ≤ v.maxBackdateDays ∧ v.maxBackdateDays ≤ 60 ∧
        v.earlySettle ≤ 1)) ∧
    (∀ row v, s.control.window.cursor = .blockRanges row → put = .blockRanges v → ∃ t : State,
      exec .put s = .next (t.answered 10 (if t.ranges[row].rangeHeld then .okClamped else .ok)
        (.cursor t.control.window.cursor)) ∧
      t = { s with ranges := t.ranges, control := { s.control with
        window := { s.control.window with cursor := .blockRanges (if row = 31 then row else row + 1) } } } ∧
      (∀ i : Fin 32, i ≠ row → t.ranges[i] = s.ranges[i]) ∧
      (v.mask &&& 0xFFFFFF00000000 ≠ 0xFFFFFF00000000 ∨ 63 < v.operator ∨ 1 < v.valid →
        t.ranges[row] = { s.ranges[row] with rangeHeld := true }) ∧
      (v.mask &&& 0xFFFFFF00000000 = 0xFFFFFF00000000 → v.operator ≤ 63 → v.valid ≤ 1 →
        t.ranges[row].valid = decide (v.valid = 1) ∧ t.ranges[row].base = v.base ∧ t.ranges[row].mask = v.mask ∧
        t.ranges[row].operator.val = v.operator ∧ t.ranges[row].reason = v.reason ∧ t.ranges[row].rangeHeld = false))

/-- R147, R148: SWITCH_POLICY with no operation in flight flips at once: the other bank is active with its rows as they
stand. With one in flight it sets switch-pending and holds the Control Unit, unanswered, until the completion releases the
flip. -/
def Obligations.SwitchPolicyFlipsBetweenOperations : Prop :=
  (∀ s : State, s.takes 13 [] →
    (s.settle.inFlight = none → exec .switchPolicy s = .next (({ s with policy := { s.policy with
      active := (match s.policy.active with | .a => .b | .b => .a), switchPending := false } } : State).answered
        13 .ok .none)) ∧
    (∀ replies, s.settle.inFlight ≠ none → s.control.phase = .executing replies none →
      exec .switchPolicy s = .next { s with
        policy := { s.policy with switchPending := true }
        control := { s.control with phase := .executing replies (some .switchPolicy) } })) ∧
  ∀ (s : State) (op : Operation) (replies : List ReplyEntry), s.settle.inFlight = some op → s.policy.switchPending = true →
    s.control.phase = .executing replies (some .switchPolicy) →
    ∃ t : State, exec .settlementCompletion { s with policy := { s.policy with switchPending := false } } = .next t ∧
      exec .settlementCompletion s = .next (({ t with policy := { s.policy with
        active := (match s.policy.active with | .a => .b | .b => .a), switchPending := false } } : State).answered
          13 .ok .none)

/-- R48, R161: INTERCEPT ON is refused CLOCK_UNSET before the clock is set. Otherwise the requested value is written; the
effective one takes it at once, and the command is answered, unless the head parcel is IN_DISPOSITION and the two differ:
then the command holds the Control Unit until the parcel's boundary. -/
def Obligations.InterceptChangesAtParcelBoundaries : Prop :=
  ∀ (s : State) (value : Bool) (replies : List ReplyEntry), s.takes 14 [if value then 1 else 0] →
    s.control.phase = .executing replies none →
    (value = true → s.time.clock = .unset → exec .intercept s = .next (s.answered 14 .clockUnset .none)) ∧
    (value = false ∨ s.time.clock = .set →
      ((∀ p rest, s.intake.queue = p :: rest → p.condition = .inDisposition → s.intake.effective = value) →
        exec .intercept s = .next (({ s with intake := { s.intake with
          requested := value, effective := value } } : State).answered 14 .ok .none)) ∧
      (∀ p rest, s.intake.queue = p :: rest → p.condition = .inDisposition → s.intake.effective ≠ value →
        exec .intercept s = .next { s with
          intake := { s.intake with requested := value }
          control := { s.control with phase := .executing replies (some .intercept) } }))

/-! ### Status, notices, log and soft reset -/

/-- R165, R167, R174, R175: READ_STATUS is taken in READY and during initialization. Its reply carries the items of Table 9-3
as they stand, the case counts being those of the 2,048 records, and 0 with the slots and the depth during initialization; it
changes nothing but the four counters, which it sets to 0 when asked. -/
def Obligations.StatusIsReportedAsItStands : Prop :=
  ∀ (s : State) (entry : List Byte) (clear : Bool), s.tableOk → s.nextEntry = some entry → entryCode entry = 16 →
    entryArgs entry = [if clear then 1 else 0] →
    ∃ (t : State) (report : StatusReport), exec .readStatus s = .next (t.answered 16 .ok (.status report)) ∧
      (clear = false → t = s) ∧
      (clear = true → t = { s with
        dp := { s.dp with dropped := 0 }, control := { s.control with dropped := 0 }, log := { s.log with lost := 0 }
        notices := { s.notices with lost := 0 } }) ∧
      report.init = s.init ∧ report.clock = s.time.clock ∧ report.time = s.time.now ∧
      report.requested = s.intake.requested ∧ report.effective = s.intake.effective ∧ report.active = s.policy.active ∧
      report.switchPending = s.policy.switchPending ∧ report.droppedParcels = s.dp.dropped ∧
      report.droppedControl = s.control.dropped ∧ report.lostRecords = s.log.lost ∧ report.lostEvents = s.notices.lost ∧
      report.logValid = (s.log.records.toList.filter Option.isSome).length ∧ report.logOverflow = s.log.overflow ∧
      report.caseMasked = s.notices.caseMasked ∧ report.logMasked = s.notices.logMasked ∧
      report.casePending = s.notices.casePending ∧ report.logPending = s.notices.logPending ∧
      report.dpLink = s.dp.link ∧ report.cpLink = s.cp.link ∧
      (s.init = .ready → report.freeSlots = s.poolFree ∧
        report.actionDepth = s.actions.taken.length + s.actions.untaken.length ∧
        report.caseCounts = ([.free, .collecting, .held, .issued, .lapsed, .collected, .closed, .cancelled] :
          List CaseState).map (fun st => ((List.range 2048).filter (fun c => (s.caseAt c).state == st)).length)) ∧
      (s.init = .initializing → report.freeSlots = 0 ∧ report.actionDepth = 0 ∧
        report.caseCounts = [0, 0, 0, 0, 0, 0, 0, 0])

/-- R183, R184: SET_NOTICE_MASK writes both masks. A notice is built when none is held and an unmasked category has something
to send: first the log summary as it stands, when LOG is unmasked and pending, which clears LOG pending; then, when CASE is
unmasked, the untaken events at the head that fit in 16 entries, which become taken. That SET_NOTICE_MASK and the build set
CASE pending anew from the queue, which tells only after a SOFT_RESET that left events untaken, is the model's choice (DESIGN
CHOICE, assumption 9). -/
def Obligations.NoticesAreMaskedAndBuilt : Prop :=
  (∀ (s : State) (caseMask logMask : Bool),
    s.takes 17 [if caseMask then 1 else 0, if logMask then 1 else 0] →
    exec .setNoticeMask s = .next (({ s with notices := { s.notices with
      caseMasked := caseMask, logMasked := logMask, casePending := !s.notices.untaken.isEmpty } } : State).answered
        17 .ok .none)) ∧
  ∀ (s : State) (logs events : Bool), logs = (!s.notices.logMasked && s.notices.logPending) →
    events = (!s.notices.caseMasked && !s.notices.untaken.isEmpty) →
    (s.notices.parcel ≠ none ∨ (logs = false ∧ events = false) → exec .noticeBuild s = .next s) ∧
    (s.notices.parcel = none → logs = true ∨ events = true → ∀ n : Nat,
      n = (if s.notices.caseMasked then 0 else if logs then 15 else 16) → ∃ t : State, exec .noticeBuild s = .next t ∧
      t = { s with notices := { s.notices with
        taken := s.notices.taken ++ s.notices.untaken.take n, untaken := s.notices.untaken.drop n
        logPending := s.notices.logPending && !logs, casePending := !(s.notices.untaken.drop n).isEmpty
        parcel := t.notices.parcel } } ∧
      (logs = false → t.notices.parcel = some none) ∧
      (logs = true → ∃ first : Option (Fin 32), t.notices.parcel = some (some
          ⟨(s.log.records.toList.filter Option.isSome).length, s.log.overflow, first⟩) ∧
        (first = none ↔ ∀ i : Fin 32, s.log.records[i] = none) ∧
        ∀ i, first = some i → s.log.records[i].isSome = true ∧
          ∀ j : Fin 32, (j - s.log.writeIndex).val < (i - s.log.writeIndex).val → s.log.records[j] = none))

/-- R178, R179, R180, R181, R183: an exception is written at the write index while overflow is clear and the record there is
invalid; else it is lost, and overflow is set. LOG becomes pending when the log passes from empty to not, or overflow is set.
READ_LOG carries eight records from its start index, counted round; CLEAR_LOG makes one record invalid, or clears overflow,
and ends the LOG condition when the log is left empty with overflow clear. -/
def Obligations.ExceptionLogIsWrittenReadAndCleared : Prop :=
  (∀ (s : State) (r : LogRecord),
    (s.log.overflow = false → s.log.records[s.log.writeIndex] = none → s.logRecord r = { s with
      log := { s.log with records := s.log.records.set s.log.writeIndex (some r), writeIndex := s.log.writeIndex + 1 }
      notices := { s.notices with
        logPending := s.notices.logPending || decide (∀ i : Fin 32, s.log.records[i] = none) } }) ∧
    (s.log.overflow = false → s.log.records[s.log.writeIndex] ≠ none → s.logRecord r = { s with
      log := { s.log with overflow := true, lost := bump s.log.lost }
      notices := { s.notices with logPending := true } }) ∧
    (s.log.overflow = true → s.logRecord r = { s with log := { s.log with lost := bump s.log.lost } })) ∧
  (∀ (s : State) (start : Fin 32), s.takes 18 [BitVec.ofNat 8 start.val] →
    exec .readLog s = .next (s.answered 18 .ok (.log s.log.writeIndex s.log.overflow
      (s.log.records.toList.filter Option.isSome).length s.log.lost
      ([0, 1, 2, 3, 4, 5, 6, 7].map (fun k : Fin 32 => (start + k, s.log.records[start + k])))))) ∧
  (∀ (s : State) (i : Fin 32), s.takes 19 [BitVec.ofNat 8 i.val] → ∃ t : State,
    exec .clearLog s = .next (t.answered 19 .ok .none) ∧ t.log = { s.log with records := s.log.records.set i none } ∧
    t = { s with log := t.log, notices := { s.notices with
      logPending := s.notices.logPending &&
        !(decide (∀ j : Fin 32, j ≠ i → s.log.records[j] = none) && !s.log.overflow) } }) ∧
  ∀ s : State, s.takes 19 [255] → ∃ t : State,
    exec .clearLog s = .next (t.answered 19 .ok .none) ∧ t.log = { s.log with overflow := false } ∧
    t = { s with log := t.log, notices := { s.notices with
      logPending := s.notices.logPending && !decide (∀ j : Fin 32, s.log.records[j] = none) } }

/-- R176, R178, R185: SOFT_RESET returns window, masks, pending flags, counters, log and drop-run flag to their starting
values, discards the control parcels behind its own, withdraws a notice parcel that is not being sent, its events untaken
again at the head, and keeps everything else. That CASE pending is clear although events may be left untaken is R176's word
against R183's (assumption 9); that a parcel whose frame a falling link cut, and which waits to be sent again, is withdrawn
too is the model's choice (DESIGN CHOICE, assumption 29). -/
def Obligations.SoftResetKeepsTheWork : Prop :=
  ∀ s : State, s.takes 20 [] → ∃ t : State, exec .softReset s = .next (t.answered 20 .ok .none) ∧
    t = { s with
      control := { s.control with window := ⟨.policyStandby 0, none, none⟩, dropped := 0 }
      dp := { s.dp with dropRun := false, dropped := 0 }
      cp := { s.cp with queue := s.cp.queue.take 1 }
      log := t.log
      notices := { s.notices with
        taken := t.notices.taken, untaken := t.notices.untaken, parcel := t.notices.parcel
        lost := 0, caseMasked := true, logMasked := true, casePending := false, logPending := false } } ∧
    (∀ i : Fin 32, t.log.records[i] = none) ∧ t.log.writeIndex = 0 ∧ t.log.overflow = false ∧ t.log.lost = 0 ∧
    (s.cp.sending = some .notice ∨ s.notices.parcel = none → t.notices.taken = s.notices.taken ∧
      t.notices.untaken = s.notices.untaken ∧ t.notices.parcel = s.notices.parcel) ∧
    (s.cp.sending ≠ some .notice → s.notices.parcel ≠ none → t.notices.taken = [] ∧
      t.notices.untaken = s.notices.taken ++ s.notices.untaken ∧ t.notices.parcel = none)

/-! ### Formats -/

/-- R187 to R192, R34, R116, R164: what the formats write reads back. A parcel of a header and as many entries as it counts,
within the maximum of its kind, records of 48 bytes for UPLOAD and entries that open with their own length for the others,
passes the header checks when framed and padded, and gives the same header and entries; a ref's value gives back the ref; the
argument bytes of an OPEN_CASE, in the order of Table 11-5, give back its arguments; and so do those of a PUT of an operator
row. And what leaves the part stands at the bytes the tables give: the four action entries and their grants (Table 11-4); a
reply entry's length, code, status and the results of OPEN_CASE and of the cursor (R191); a case event and a log summary
(R192); and the frames on both transmit pairs, whose parcels open with the header R188 gives each of them. -/
def Obligations.FormatsReadBack : Prop :=
  (∀ (port : Port) (h : Header) (entries : List (List Byte)), 1 ≤ entries.length → entries.length ≤ h.kind.maxCount →
    h.count.toNat = entries.length → (parcelOf h entries).length < 65536 →
    (h.kind = .upload → ∀ e ∈ entries, e.length = 48) →
    (h.kind ≠ .upload → ∀ e ∈ entries, 4 ≤ e.length ∧ fieldNat e 0 2 = e.length) →
    checkParcel (frameOf port (parcelOf h entries)).payload = .ok ⟨h, entries⟩) ∧
  (∀ r : Ref, r.caseNo < 2048 → r.generation < 8192 → refOf r.value = r ∧ r.value < 4294967296) ∧
  (∀ a : OpenArgs, a.reportTime < 4294967296 → a.baselineCsn < 4294967296 → -2147483648 ≤ a.baselineBalance →
    a.baselineBalance ≤ 2147483647 → a.passes.length < 256 →
    (∀ p ∈ a.passes, p.pass.product < 65536 ∧ p.pass.firstDay < 65536 ∧ p.pass.lastDay < 65536 ∧ p.pass.rides < 65536) →
    readOpenCase (cardBytes a.oldCard ++ cardBytes a.newCard ++ beBytes 1 a.operator.val ++ beBytes 4 a.hostTag.toNat
      ++ [flagByte a.feeWaived] ++ beBytes 4 a.reportTime ++ beBytes 4 a.baselineCsn ++ intBytes a.baselineBalance
      ++ listBytes PassRecord.bytes a.passes) = some a) ∧
  (∀ v : PolicyValues, v.valid < 256 → v.fee < 65536 → -2147483648 ≤ v.purseMax → v.purseMax ≤ 2147483647 →
    v.gapPolicy < 256 → v.windowHours < 65536 → v.collectionDays < 256 → v.tailDays < 256 → v.dayOffset < 4294967296 →
    v.minCarryDays < 256 → v.maxBackdateDays < 256 → v.earlySettle < 256 →
    readPut (beBytes 1 0 ++ beBytes 1 v.valid ++ beBytes 2 v.fee ++ intBytes v.purseMax ++ beBytes 1 v.gapPolicy
      ++ beBytes 2 v.windowHours ++ beBytes 1 v.collectionDays ++ beBytes 1 v.tailDays ++ beBytes 4 v.dayOffset
      ++ beBytes 1 v.minCarryDays ++ beBytes 1 v.maxBackdateDays ++ beBytes 1 v.earlySettle) =
        some (.policyStandby v)) ∧
  (∀ (e : ActionEntry) (b : List Byte) (ref : Ref) (card : CardId), b = e.bytes → ref.value < 4294967296 →
    ∀ opens : Nat → Nat → Nat → Prop, (∀ length kind grants, opens length kind grants ↔
      b.length = length ∧ fieldNat b 0 2 = length ∧ fieldNat b 2 1 = kind ∧ fieldNat b 3 1 = grants ∧
      fieldNat b 4 7 = card.toNat ∧ fieldNat b 11 4 = ref.value) →
    (∀ op instant, e = .block ref card op instant → instant < 4294967296 →
      opens 20 1 0 ∧ fieldNat b 15 1 = op.val ∧ fieldNat b 16 4 = instant) ∧
    (e = .unblock ref card → opens 15 2 0) ∧
    (e = .withdraw ref card → opens 15 4 0) ∧
    (∀ credit grants, e = .restore ref card credit grants → 0 ≤ credit → credit ≤ 500000 → grants.length ≤ 4 →
      opens (19 + 10 * grants.length) 3 grants.length ∧ fieldInt b 15 = credit ∧
      ∀ (i : Nat) (g : Grant), grants[i]? = some g → g.product < 65536 → ∀ form cls valueA valueB : Nat,
        (match g.form with
          | .dated first last => form = 1 ∧ cls = 0 ∧ valueA = first ∧ valueB = last
          | .duration days => form = 2 ∧ cls = 0 ∧ valueA = days ∧ valueB = 0
          | .rides rides last => form = 3 ∧ cls = 1 ∧ valueA = rides ∧ valueB = last) →
        valueA < 65536 → valueB < 65536 → ∀ k, k = 19 + 10 * i →
        fieldNat b k 1 = g.slot.val ∧ fieldNat b (k + 1) 1 = form ∧ fieldNat b (k + 2) 2 = g.product ∧
        fieldNat b (k + 4) 1 = cls ∧ fieldNat b (k + 5) 1 = 0 ∧ fieldNat b (k + 6) 2 = valueA ∧ fieldNat b (k + 8) 2 = valueB)) ∧
  (∀ (e : ReplyEntry) (b : List Byte), b = e.bytes → e.result.bytes.length ≤ 1020 →
    b.length = 4 + e.result.bytes.length ∧ fieldNat b 0 2 = b.length ∧ b[2]? = some e.code ∧
    ([.ok, .okClamped, .busy, .unknownCommand, .badArgument, .noSuchCase, .wrongState, .tableFull, .cardInCase, .sameCard,
      .blockedTarget, .noPolicy, .clockUnset, .readOnly, .patchActive, .notPatching, .initializing] : List Status)[
        fieldNat b 3 1]? = some e.status ∧ b.drop 4 = e.result.bytes ∧
    (e.result = .none → b.length = 4) ∧
    (∀ c inst, e.result = .opened c inst → c < 65536 → b.length = 7 ∧ fieldNat b 4 2 = c ∧ b[6]? = some inst) ∧
    (∀ cursor, e.result = .cursor cursor → b.length = 7 ∧ fieldNat b 4 1 = cursor.table ∧ fieldNat b 5 2 = cursor.row)) ∧
  (∀ (e : CaseEvent) (b : List Byte), b = e.bytes → e.caseNo < 65536 → e.time < 4294967296 →
    b.length = 23 ∧ fieldNat b 0 2 = 23 ∧ fieldNat b 2 1 = 2 ∧ fieldNat b 4 2 = e.caseNo ∧ b[6]? = some e.inst ∧
    fieldNat b 7 4 = e.hostTag.toNat ∧ fieldNat b 11 4 = e.time ∧
    match e.detail with
    | .settled status target => fieldNat b 3 1 = 1 ∧
        ([.confirmed, .gapResolved, .unconfirmed, .forced] : List ResultStatus)[fieldNat b 15 1 - 1]? = some status ∧
        (-2147483648 ≤ target → target ≤ 2147483647 → fieldInt b 16 = target) ∧ fieldNat b 20 3 = 0
    | .held reasons => fieldNat b 3 1 = 2 ∧ fieldNat b 15 1 = reasons.bits ∧ fieldNat b 16 7 = 0
    | .adjusted v => fieldNat b 3 1 = 3 ∧ (-2147483648 ≤ v → v ≤ 2147483647 → fieldInt b 15 = v) ∧ fieldNat b 19 4 = 0
    | .collected v => fieldNat b 3 1 = 4 ∧ (-2147483648 ≤ v → v ≤ 2147483647 → fieldInt b 15 = v) ∧ fieldNat b 19 4 = 0
    | .lapsed g => fieldNat b 3 1 = 5 ∧ (g < 65536 → fieldNat b 15 2 = g) ∧ fieldNat b 17 6 = 0
    | .closed v => fieldNat b 3 1 = 6 ∧ (-2147483648 ≤ v → v ≤ 2147483647 → fieldInt b 15 = v) ∧ fieldNat b 19 4 = 0) ∧
  (∀ (l : LogSummary) (b : List Byte), b = l.bytes → l.valid < 256 →
    b.length = 6 ∧ fieldNat b 0 2 = 6 ∧ fieldNat b 2 1 = 1 ∧ fieldNat b 3 1 = l.valid ∧
    fieldNat b 4 1 = (if l.overflow then 1 else 0) ∧ fieldNat b 5 1 = (match l.first with | some i => i.val | none => 255)) ∧
  ∀ (s : State) (framed : Option TxFrame → BitVec 48 → Header → List (List Byte) → Prop),
    (∀ frame address header entries, framed frame address header entries ↔ ∃ f parcel, frame = some f ∧
      f.destination = 0xFFFFFFFFFFFF ∧ f.source = address ∧ f.etherType = 0x88B5 ∧
      f.payload = beBytes 2 parcel.length ++ parcel ++ List.replicate (46 - (2 + parcel.length)) 0 ∧
      parcel = [header.kind.code, 1] ++ beBytes 3 header.source.toNat ++ beBytes 2 header.seq.toNat ++ [header.count]
        ++ entries.flatten) →
    (s.actions.taken = [] → s.deviceFrame = none) ∧
    (s.actions.taken ≠ [] → framed s.deviceFrame 0x02565A000001
      ⟨.action, 0, s.actions.seq, BitVec.ofNat 8 s.actions.taken.length⟩ (s.actions.taken.map ActionEntry.bytes)) ∧
    (s.cp.sending = none → s.clearingFrame = none) ∧
    (∀ replies p, s.cp.sending = some .reply → s.control.phase = .offering replies → s.cp.queue.head? = some p →
      framed s.clearingFrame 0x02565A000002 { p.header with kind := .reply } (replies.map ReplyEntry.bytes)) ∧
    (∀ summary entries, s.cp.sending = some .notice → s.notices.parcel = some summary →
      entries = (summary.map LogSummary.bytes).toList ++ s.notices.taken.map CaseEvent.bytes →
      framed s.clearingFrame 0x02565A000002 ⟨.notice, 0, s.notices.seq, BitVec.ofNat 8 entries.length⟩ entries) ∧
    (∀ parcel, s.cp.sending = some .forward → s.forward.head? = some parcel →
      framed s.clearingFrame 0x02565A000002 parcel.header parcel.records)

/-! ### What every step keeps -/

/-- R142: every field of every row of both banks holds a value within its range at all times: the reset values are in range,
and no step of the part places another. -/
def Obligations.PolicyRowsStayInRange : Prop :=
  State.reset.policyOk ∧ ∀ s t : State, s.policyOk → step s = .next t → t.policyOk

/-- R30, R37, R51, R75, R119, R124, R151, R154, R162, R175, R182, R184: queues stay within their capacities, no two settle
requests share a case, counters and part time stay in their ranges, and block range masks keep their 24 leading ones. -/
def Obligations.QueuesAndCountersKept : Prop :=
  ∀ s t : State, step s = .next t →
    (s.queuesOk → t.queuesOk) ∧ (s.countersOk → t.countersOk) ∧ (s.timeOk → t.timeOk) ∧ (s.rangesOk → t.rangesOk)

/-- R1, R8, R117, R121, R130, R131, R159: every case record stays sound: no deadline of another state, an outstanding action
in ISSUED alone and under the last generation, nothing owed without it, totals in their ranges, a FREE record blank. -/
def Obligations.CaseRecordsKept : Prop :=
  ∀ s t : State, s.tableOk → s.casesOk → step s = .next t → t.tableOk ∧ t.casesOk

/-- R57, R59: every arrival list stays in strictly ascending CSN order above its baseline with at most 32 arrivals, and the
slots in use and the free ones stay 16,384. -/
def Obligations.ArrivalPoolKept : Prop := ∀ s t : State, s.poolOk → step s = .next t → t.poolOk

/-- R6, R7: the Card Index keeps each card once and exactly the two entries of every case that is not FREE. -/
def Obligations.CardIndexKept : Prop := ∀ s t : State, s.indexOk → step s = .next t → t.indexOk

/-- R33, R48, R147, R163, R164: the Control Unit, the CP output, the intake queue's conditions and the switch stay in
agreement. -/
def Obligations.ControlPathKept : Prop := ∀ s t : State, s.controlOk → step s = .next t → t.controlOk

/-- R127, R112, R129: an outstanding action carries, after every step, exactly the credit max(T − applied − unpaid, 0) and
the grants that its case desires. -/
def Obligations.OutstandingActionsCarryWhatIsDesired : Prop :=
  ∀ s t : State, s.tableOk → s.casesOk → s.actionsAgree → step s = .next t → t.actionsAgree

/-- R4, R12, R66, R72, R96, R104, R112, R117 and the states of Table 1-3, over every command: how the record of a case goes
on while it stays a case; a record leaves FREE only by OPEN_CASE, under its next instance, and returns to it only by
RELEASE_CASE from CLOSED or CANCELLED, and by the resets. Stated where every outstanding action carries what its case
desires, as every step keeps it. -/
def Obligations.CaseLivesAreLawful : Prop :=
  ∀ (c : Instr) (s t : State) (k : Nat), s.tableOk → s.casesOk → s.actionsAgree → exec c s = .next t → c ≠ .hardReset →
    c ≠ .initializationEnd →
    ((s.caseAt k).state ≠ .free → (t.caseAt k).state ≠ .free → (s.caseAt k).goesOn (t.caseAt k)) ∧
    ((s.caseAt k).state = .free → t.caseAt k = s.caseAt k ∨
      (c = .openCase ∧ (t.caseAt k).state = .collecting ∧ (t.caseAt k).inst = (s.caseAt k).inst + 1)) ∧
    ((s.caseAt k).state ≠ .free → (t.caseAt k).state = .free →
      c = .releaseCase ∧ ((s.caseAt k).state = .closed ∨ (s.caseAt k).state = .cancelled) ∧
        t.caseAt k = CaseRecord.freeWith (s.caseAt k).inst)

/-- The state at the release of the RESET pin meets everything that every step keeps. That the tables stand at their reset
values at that moment, and not only from the end of the initialization period as R167 has it, is the model's choice (DESIGN
CHOICE, assumption 4). -/
def Obligations.ResetStateIsSound : Prop := State.reset.sound ∧ State.reset.actionsAgree
end

