-- ==== Sys2Proof/Laws/State.lean ====
section
/-! SUPPORT. One lemma for each field and each update of State: what an update leaves as it was, and what it writes. -/

namespace Sys2Proof.Machine

/-! ### The fields an update leaves -/

/-! #### `setCase` -/

@[simp] theorem State.setCase_init (s : State) (c : Nat) (r : CaseRecord) :
    (s.setCase c r).init = s.init := rfl
@[simp] theorem State.setCase_dp (s : State) (c : Nat) (r : CaseRecord) :
    (s.setCase c r).dp = s.dp := rfl
@[simp] theorem State.setCase_cp (s : State) (c : Nat) (r : CaseRecord) :
    (s.setCase c r).cp = s.cp := rfl
@[simp] theorem State.setCase_intake (s : State) (c : Nat) (r : CaseRecord) :
    (s.setCase c r).intake = s.intake := rfl
@[simp] theorem State.setCase_forward (s : State) (c : Nat) (r : CaseRecord) :
    (s.setCase c r).forward = s.forward := rfl
@[simp] theorem State.setCase_index (s : State) (c : Nat) (r : CaseRecord) :
    (s.setCase c r).index = s.index := rfl
@[simp] theorem State.setCase_ranges (s : State) (c : Nat) (r : CaseRecord) :
    (s.setCase c r).ranges = s.ranges := rfl
@[simp] theorem State.setCase_poolFree (s : State) (c : Nat) (r : CaseRecord) :
    (s.setCase c r).poolFree = s.poolFree := rfl
@[simp] theorem State.setCase_settle (s : State) (c : Nat) (r : CaseRecord) :
    (s.setCase c r).settle = s.settle := rfl
@[simp] theorem State.setCase_actions (s : State) (c : Nat) (r : CaseRecord) :
    (s.setCase c r).actions = s.actions := rfl
@[simp] theorem State.setCase_policy (s : State) (c : Nat) (r : CaseRecord) :
    (s.setCase c r).policy = s.policy := rfl
@[simp] theorem State.setCase_time (s : State) (c : Nat) (r : CaseRecord) :
    (s.setCase c r).time = s.time := rfl
@[simp] theorem State.setCase_control (s : State) (c : Nat) (r : CaseRecord) :
    (s.setCase c r).control = s.control := rfl
@[simp] theorem State.setCase_log (s : State) (c : Nat) (r : CaseRecord) :
    (s.setCase c r).log = s.log := rfl
@[simp] theorem State.setCase_notices (s : State) (c : Nat) (r : CaseRecord) :
    (s.setCase c r).notices = s.notices := rfl
@[simp] theorem State.setCase_freeDraws (s : State) (c : Nat) (r : CaseRecord) :
    (s.setCase c r).freeDraws = s.freeDraws := rfl
@[simp] theorem State.setCase_pending (s : State) (c : Nat) (r : CaseRecord) :
    (s.setCase c r).pending = s.pending := rfl

/-! #### `addCards` -/

@[simp] theorem State.addCards_init (s : State) (c : Nat) (o n : CardId) :
    (s.addCards c o n).init = s.init := rfl
@[simp] theorem State.addCards_dp (s : State) (c : Nat) (o n : CardId) :
    (s.addCards c o n).dp = s.dp := rfl
@[simp] theorem State.addCards_cp (s : State) (c : Nat) (o n : CardId) :
    (s.addCards c o n).cp = s.cp := rfl
@[simp] theorem State.addCards_intake (s : State) (c : Nat) (o n : CardId) :
    (s.addCards c o n).intake = s.intake := rfl
@[simp] theorem State.addCards_forward (s : State) (c : Nat) (o n : CardId) :
    (s.addCards c o n).forward = s.forward := rfl
@[simp] theorem State.addCards_ranges (s : State) (c : Nat) (o n : CardId) :
    (s.addCards c o n).ranges = s.ranges := rfl
@[simp] theorem State.addCards_cases (s : State) (c : Nat) (o n : CardId) :
    (s.addCards c o n).cases = s.cases := rfl
@[simp] theorem State.addCards_poolFree (s : State) (c : Nat) (o n : CardId) :
    (s.addCards c o n).poolFree = s.poolFree := rfl
@[simp] theorem State.addCards_settle (s : State) (c : Nat) (o n : CardId) :
    (s.addCards c o n).settle = s.settle := rfl
@[simp] theorem State.addCards_actions (s : State) (c : Nat) (o n : CardId) :
    (s.addCards c o n).actions = s.actions := rfl
@[simp] theorem State.addCards_policy (s : State) (c : Nat) (o n : CardId) :
    (s.addCards c o n).policy = s.policy := rfl
@[simp] theorem State.addCards_time (s : State) (c : Nat) (o n : CardId) :
    (s.addCards c o n).time = s.time := rfl
@[simp] theorem State.addCards_control (s : State) (c : Nat) (o n : CardId) :
    (s.addCards c o n).control = s.control := rfl
@[simp] theorem State.addCards_log (s : State) (c : Nat) (o n : CardId) :
    (s.addCards c o n).log = s.log := rfl
@[simp] theorem State.addCards_notices (s : State) (c : Nat) (o n : CardId) :
    (s.addCards c o n).notices = s.notices := rfl
@[simp] theorem State.addCards_freeDraws (s : State) (c : Nat) (o n : CardId) :
    (s.addCards c o n).freeDraws = s.freeDraws := rfl
@[simp] theorem State.addCards_pending (s : State) (c : Nat) (o n : CardId) :
    (s.addCards c o n).pending = s.pending := rfl

/-! #### `removeCards` -/

@[simp] theorem State.removeCards_init (s : State) (c : Nat) :
    (s.removeCards c).init = s.init := rfl
@[simp] theorem State.removeCards_dp (s : State) (c : Nat) :
    (s.removeCards c).dp = s.dp := rfl
@[simp] theorem State.removeCards_cp (s : State) (c : Nat) :
    (s.removeCards c).cp = s.cp := rfl
@[simp] theorem State.removeCards_intake (s : State) (c : Nat) :
    (s.removeCards c).intake = s.intake := rfl
@[simp] theorem State.removeCards_forward (s : State) (c : Nat) :
    (s.removeCards c).forward = s.forward := rfl
@[simp] theorem State.removeCards_ranges (s : State) (c : Nat) :
    (s.removeCards c).ranges = s.ranges := rfl
@[simp] theorem State.removeCards_cases (s : State) (c : Nat) :
    (s.removeCards c).cases = s.cases := rfl
@[simp] theorem State.removeCards_poolFree (s : State) (c : Nat) :
    (s.removeCards c).poolFree = s.poolFree := rfl
@[simp] theorem State.removeCards_settle (s : State) (c : Nat) :
    (s.removeCards c).settle = s.settle := rfl
@[simp] theorem State.removeCards_actions (s : State) (c : Nat) :
    (s.removeCards c).actions = s.actions := rfl
@[simp] theorem State.removeCards_policy (s : State) (c : Nat) :
    (s.removeCards c).policy = s.policy := rfl
@[simp] theorem State.removeCards_time (s : State) (c : Nat) :
    (s.removeCards c).time = s.time := rfl
@[simp] theorem State.removeCards_control (s : State) (c : Nat) :
    (s.removeCards c).control = s.control := rfl
@[simp] theorem State.removeCards_log (s : State) (c : Nat) :
    (s.removeCards c).log = s.log := rfl
@[simp] theorem State.removeCards_notices (s : State) (c : Nat) :
    (s.removeCards c).notices = s.notices := rfl
@[simp] theorem State.removeCards_freeDraws (s : State) (c : Nat) :
    (s.removeCards c).freeDraws = s.freeDraws := rfl
@[simp] theorem State.removeCards_pending (s : State) (c : Nat) :
    (s.removeCards c).pending = s.pending := rfl

/-! #### `enqueue` -/

@[simp] theorem State.enqueue_init (s : State) (e : ActionEntry) :
    (s.enqueue e).init = s.init := rfl
@[simp] theorem State.enqueue_dp (s : State) (e : ActionEntry) :
    (s.enqueue e).dp = s.dp := rfl
@[simp] theorem State.enqueue_cp (s : State) (e : ActionEntry) :
    (s.enqueue e).cp = s.cp := rfl
@[simp] theorem State.enqueue_intake (s : State) (e : ActionEntry) :
    (s.enqueue e).intake = s.intake := rfl
@[simp] theorem State.enqueue_forward (s : State) (e : ActionEntry) :
    (s.enqueue e).forward = s.forward := rfl
@[simp] theorem State.enqueue_index (s : State) (e : ActionEntry) :
    (s.enqueue e).index = s.index := rfl
@[simp] theorem State.enqueue_ranges (s : State) (e : ActionEntry) :
    (s.enqueue e).ranges = s.ranges := rfl
@[simp] theorem State.enqueue_cases (s : State) (e : ActionEntry) :
    (s.enqueue e).cases = s.cases := rfl
@[simp] theorem State.enqueue_poolFree (s : State) (e : ActionEntry) :
    (s.enqueue e).poolFree = s.poolFree := rfl
@[simp] theorem State.enqueue_settle (s : State) (e : ActionEntry) :
    (s.enqueue e).settle = s.settle := rfl
@[simp] theorem State.enqueue_policy (s : State) (e : ActionEntry) :
    (s.enqueue e).policy = s.policy := rfl
@[simp] theorem State.enqueue_time (s : State) (e : ActionEntry) :
    (s.enqueue e).time = s.time := rfl
@[simp] theorem State.enqueue_control (s : State) (e : ActionEntry) :
    (s.enqueue e).control = s.control := rfl
@[simp] theorem State.enqueue_log (s : State) (e : ActionEntry) :
    (s.enqueue e).log = s.log := rfl
@[simp] theorem State.enqueue_notices (s : State) (e : ActionEntry) :
    (s.enqueue e).notices = s.notices := rfl
@[simp] theorem State.enqueue_freeDraws (s : State) (e : ActionEntry) :
    (s.enqueue e).freeDraws = s.freeDraws := rfl
@[simp] theorem State.enqueue_pending (s : State) (e : ActionEntry) :
    (s.enqueue e).pending = s.pending := rfl

/-! #### `dropRequest` -/

@[simp] theorem State.dropRequest_init (s : State) (c : Nat) :
    (s.dropRequest c).init = s.init := rfl
@[simp] theorem State.dropRequest_dp (s : State) (c : Nat) :
    (s.dropRequest c).dp = s.dp := rfl
@[simp] theorem State.dropRequest_cp (s : State) (c : Nat) :
    (s.dropRequest c).cp = s.cp := rfl
@[simp] theorem State.dropRequest_intake (s : State) (c : Nat) :
    (s.dropRequest c).intake = s.intake := rfl
@[simp] theorem State.dropRequest_forward (s : State) (c : Nat) :
    (s.dropRequest c).forward = s.forward := rfl
@[simp] theorem State.dropRequest_index (s : State) (c : Nat) :
    (s.dropRequest c).index = s.index := rfl
@[simp] theorem State.dropRequest_ranges (s : State) (c : Nat) :
    (s.dropRequest c).ranges = s.ranges := rfl
@[simp] theorem State.dropRequest_cases (s : State) (c : Nat) :
    (s.dropRequest c).cases = s.cases := rfl
@[simp] theorem State.dropRequest_poolFree (s : State) (c : Nat) :
    (s.dropRequest c).poolFree = s.poolFree := rfl
@[simp] theorem State.dropRequest_actions (s : State) (c : Nat) :
    (s.dropRequest c).actions = s.actions := rfl
@[simp] theorem State.dropRequest_policy (s : State) (c : Nat) :
    (s.dropRequest c).policy = s.policy := rfl
@[simp] theorem State.dropRequest_time (s : State) (c : Nat) :
    (s.dropRequest c).time = s.time := rfl
@[simp] theorem State.dropRequest_control (s : State) (c : Nat) :
    (s.dropRequest c).control = s.control := rfl
@[simp] theorem State.dropRequest_log (s : State) (c : Nat) :
    (s.dropRequest c).log = s.log := rfl
@[simp] theorem State.dropRequest_notices (s : State) (c : Nat) :
    (s.dropRequest c).notices = s.notices := rfl
@[simp] theorem State.dropRequest_freeDraws (s : State) (c : Nat) :
    (s.dropRequest c).freeDraws = s.freeDraws := rfl
@[simp] theorem State.dropRequest_pending (s : State) (c : Nat) :
    (s.dropRequest c).pending = s.pending := rfl

/-! #### `logRecord` -/

@[simp] theorem State.logRecord_init (s : State) (r : LogRecord) :
    (s.logRecord r).init = s.init := rfl
@[simp] theorem State.logRecord_dp (s : State) (r : LogRecord) :
    (s.logRecord r).dp = s.dp := rfl
@[simp] theorem State.logRecord_cp (s : State) (r : LogRecord) :
    (s.logRecord r).cp = s.cp := rfl
@[simp] theorem State.logRecord_intake (s : State) (r : LogRecord) :
    (s.logRecord r).intake = s.intake := rfl
@[simp] theorem State.logRecord_forward (s : State) (r : LogRecord) :
    (s.logRecord r).forward = s.forward := rfl
@[simp] theorem State.logRecord_index (s : State) (r : LogRecord) :
    (s.logRecord r).index = s.index := rfl
@[simp] theorem State.logRecord_ranges (s : State) (r : LogRecord) :
    (s.logRecord r).ranges = s.ranges := rfl
@[simp] theorem State.logRecord_cases (s : State) (r : LogRecord) :
    (s.logRecord r).cases = s.cases := rfl
@[simp] theorem State.logRecord_poolFree (s : State) (r : LogRecord) :
    (s.logRecord r).poolFree = s.poolFree := rfl
@[simp] theorem State.logRecord_settle (s : State) (r : LogRecord) :
    (s.logRecord r).settle = s.settle := rfl
@[simp] theorem State.logRecord_actions (s : State) (r : LogRecord) :
    (s.logRecord r).actions = s.actions := rfl
@[simp] theorem State.logRecord_policy (s : State) (r : LogRecord) :
    (s.logRecord r).policy = s.policy := rfl
@[simp] theorem State.logRecord_time (s : State) (r : LogRecord) :
    (s.logRecord r).time = s.time := rfl
@[simp] theorem State.logRecord_control (s : State) (r : LogRecord) :
    (s.logRecord r).control = s.control := rfl
@[simp] theorem State.logRecord_freeDraws (s : State) (r : LogRecord) :
    (s.logRecord r).freeDraws = s.freeDraws := rfl
@[simp] theorem State.logRecord_pending (s : State) (r : LogRecord) :
    (s.logRecord r).pending = s.pending := rfl

/-! #### `logException` -/

@[simp] theorem State.logException_init (s : State) (c : Option Nat) (k : Option CardId) (d : Option DeviceId) (x : ExceptionDetail) :
    (s.logException c k d x).init = s.init := rfl
@[simp] theorem State.logException_dp (s : State) (c : Option Nat) (k : Option CardId) (d : Option DeviceId) (x : ExceptionDetail) :
    (s.logException c k d x).dp = s.dp := rfl
@[simp] theorem State.logException_cp (s : State) (c : Option Nat) (k : Option CardId) (d : Option DeviceId) (x : ExceptionDetail) :
    (s.logException c k d x).cp = s.cp := rfl
@[simp] theorem State.logException_intake (s : State) (c : Option Nat) (k : Option CardId) (d : Option DeviceId) (x : ExceptionDetail) :
    (s.logException c k d x).intake = s.intake := rfl
@[simp] theorem State.logException_forward (s : State) (c : Option Nat) (k : Option CardId) (d : Option DeviceId) (x : ExceptionDetail) :
    (s.logException c k d x).forward = s.forward := rfl
@[simp] theorem State.logException_index (s : State) (c : Option Nat) (k : Option CardId) (d : Option DeviceId) (x : ExceptionDetail) :
    (s.logException c k d x).index = s.index := rfl
@[simp] theorem State.logException_ranges (s : State) (c : Option Nat) (k : Option CardId) (d : Option DeviceId) (x : ExceptionDetail) :
    (s.logException c k d x).ranges = s.ranges := rfl
@[simp] theorem State.logException_cases (s : State) (c : Option Nat) (k : Option CardId) (d : Option DeviceId) (x : ExceptionDetail) :
    (s.logException c k d x).cases = s.cases := rfl
@[simp] theorem State.logException_poolFree (s : State) (c : Option Nat) (k : Option CardId) (d : Option DeviceId) (x : ExceptionDetail) :
    (s.logException c k d x).poolFree = s.poolFree := rfl
@[simp] theorem State.logException_settle (s : State) (c : Option Nat) (k : Option CardId) (d : Option DeviceId) (x : ExceptionDetail) :
    (s.logException c k d x).settle = s.settle := rfl
@[simp] theorem State.logException_actions (s : State) (c : Option Nat) (k : Option CardId) (d : Option DeviceId) (x : ExceptionDetail) :
    (s.logException c k d x).actions = s.actions := rfl
@[simp] theorem State.logException_policy (s : State) (c : Option Nat) (k : Option CardId) (d : Option DeviceId) (x : ExceptionDetail) :
    (s.logException c k d x).policy = s.policy := rfl
@[simp] theorem State.logException_time (s : State) (c : Option Nat) (k : Option CardId) (d : Option DeviceId) (x : ExceptionDetail) :
    (s.logException c k d x).time = s.time := rfl
@[simp] theorem State.logException_control (s : State) (c : Option Nat) (k : Option CardId) (d : Option DeviceId) (x : ExceptionDetail) :
    (s.logException c k d x).control = s.control := rfl
@[simp] theorem State.logException_freeDraws (s : State) (c : Option Nat) (k : Option CardId) (d : Option DeviceId) (x : ExceptionDetail) :
    (s.logException c k d x).freeDraws = s.freeDraws := rfl
@[simp] theorem State.logException_pending (s : State) (c : Option Nat) (k : Option CardId) (d : Option DeviceId) (x : ExceptionDetail) :
    (s.logException c k d x).pending = s.pending := rfl

/-! #### `raiseEvent` -/

@[simp] theorem State.raiseEvent_init (s : State) (c : Nat) (d : EventDetail) :
    (s.raiseEvent c d).init = s.init := rfl
@[simp] theorem State.raiseEvent_dp (s : State) (c : Nat) (d : EventDetail) :
    (s.raiseEvent c d).dp = s.dp := rfl
@[simp] theorem State.raiseEvent_cp (s : State) (c : Nat) (d : EventDetail) :
    (s.raiseEvent c d).cp = s.cp := rfl
@[simp] theorem State.raiseEvent_intake (s : State) (c : Nat) (d : EventDetail) :
    (s.raiseEvent c d).intake = s.intake := rfl
@[simp] theorem State.raiseEvent_forward (s : State) (c : Nat) (d : EventDetail) :
    (s.raiseEvent c d).forward = s.forward := rfl
@[simp] theorem State.raiseEvent_index (s : State) (c : Nat) (d : EventDetail) :
    (s.raiseEvent c d).index = s.index := rfl
@[simp] theorem State.raiseEvent_ranges (s : State) (c : Nat) (d : EventDetail) :
    (s.raiseEvent c d).ranges = s.ranges := rfl
@[simp] theorem State.raiseEvent_cases (s : State) (c : Nat) (d : EventDetail) :
    (s.raiseEvent c d).cases = s.cases := rfl
@[simp] theorem State.raiseEvent_poolFree (s : State) (c : Nat) (d : EventDetail) :
    (s.raiseEvent c d).poolFree = s.poolFree := rfl
@[simp] theorem State.raiseEvent_settle (s : State) (c : Nat) (d : EventDetail) :
    (s.raiseEvent c d).settle = s.settle := rfl
@[simp] theorem State.raiseEvent_actions (s : State) (c : Nat) (d : EventDetail) :
    (s.raiseEvent c d).actions = s.actions := rfl
@[simp] theorem State.raiseEvent_policy (s : State) (c : Nat) (d : EventDetail) :
    (s.raiseEvent c d).policy = s.policy := rfl
@[simp] theorem State.raiseEvent_time (s : State) (c : Nat) (d : EventDetail) :
    (s.raiseEvent c d).time = s.time := rfl
@[simp] theorem State.raiseEvent_control (s : State) (c : Nat) (d : EventDetail) :
    (s.raiseEvent c d).control = s.control := rfl
@[simp] theorem State.raiseEvent_log (s : State) (c : Nat) (d : EventDetail) :
    (s.raiseEvent c d).log = s.log := rfl
@[simp] theorem State.raiseEvent_freeDraws (s : State) (c : Nat) (d : EventDetail) :
    (s.raiseEvent c d).freeDraws = s.freeDraws := rfl
@[simp] theorem State.raiseEvent_pending (s : State) (c : Nat) (d : EventDetail) :
    (s.raiseEvent c d).pending = s.pending := rfl

/-! #### `setWindow` -/

@[simp] theorem State.setWindow_init (s : State) (w : TableWindow) :
    (s.setWindow w).init = s.init := rfl
@[simp] theorem State.setWindow_dp (s : State) (w : TableWindow) :
    (s.setWindow w).dp = s.dp := rfl
@[simp] theorem State.setWindow_cp (s : State) (w : TableWindow) :
    (s.setWindow w).cp = s.cp := rfl
@[simp] theorem State.setWindow_intake (s : State) (w : TableWindow) :
    (s.setWindow w).intake = s.intake := rfl
@[simp] theorem State.setWindow_forward (s : State) (w : TableWindow) :
    (s.setWindow w).forward = s.forward := rfl
@[simp] theorem State.setWindow_index (s : State) (w : TableWindow) :
    (s.setWindow w).index = s.index := rfl
@[simp] theorem State.setWindow_ranges (s : State) (w : TableWindow) :
    (s.setWindow w).ranges = s.ranges := rfl
@[simp] theorem State.setWindow_cases (s : State) (w : TableWindow) :
    (s.setWindow w).cases = s.cases := rfl
@[simp] theorem State.setWindow_poolFree (s : State) (w : TableWindow) :
    (s.setWindow w).poolFree = s.poolFree := rfl
@[simp] theorem State.setWindow_settle (s : State) (w : TableWindow) :
    (s.setWindow w).settle = s.settle := rfl
@[simp] theorem State.setWindow_actions (s : State) (w : TableWindow) :
    (s.setWindow w).actions = s.actions := rfl
@[simp] theorem State.setWindow_policy (s : State) (w : TableWindow) :
    (s.setWindow w).policy = s.policy := rfl
@[simp] theorem State.setWindow_time (s : State) (w : TableWindow) :
    (s.setWindow w).time = s.time := rfl
@[simp] theorem State.setWindow_log (s : State) (w : TableWindow) :
    (s.setWindow w).log = s.log := rfl
@[simp] theorem State.setWindow_notices (s : State) (w : TableWindow) :
    (s.setWindow w).notices = s.notices := rfl
@[simp] theorem State.setWindow_freeDraws (s : State) (w : TableWindow) :
    (s.setWindow w).freeDraws = s.freeDraws := rfl
@[simp] theorem State.setWindow_pending (s : State) (w : TableWindow) :
    (s.setWindow w).pending = s.pending := rfl

/-! #### `advanceCursor` -/

@[simp] theorem State.advanceCursor_init (s : State) :
    s.advanceCursor.init = s.init := rfl
@[simp] theorem State.advanceCursor_dp (s : State) :
    s.advanceCursor.dp = s.dp := rfl
@[simp] theorem State.advanceCursor_cp (s : State) :
    s.advanceCursor.cp = s.cp := rfl
@[simp] theorem State.advanceCursor_intake (s : State) :
    s.advanceCursor.intake = s.intake := rfl
@[simp] theorem State.advanceCursor_forward (s : State) :
    s.advanceCursor.forward = s.forward := rfl
@[simp] theorem State.advanceCursor_index (s : State) :
    s.advanceCursor.index = s.index := rfl
@[simp] theorem State.advanceCursor_ranges (s : State) :
    s.advanceCursor.ranges = s.ranges := rfl
@[simp] theorem State.advanceCursor_cases (s : State) :
    s.advanceCursor.cases = s.cases := rfl
@[simp] theorem State.advanceCursor_poolFree (s : State) :
    s.advanceCursor.poolFree = s.poolFree := rfl
@[simp] theorem State.advanceCursor_settle (s : State) :
    s.advanceCursor.settle = s.settle := rfl
@[simp] theorem State.advanceCursor_actions (s : State) :
    s.advanceCursor.actions = s.actions := rfl
@[simp] theorem State.advanceCursor_policy (s : State) :
    s.advanceCursor.policy = s.policy := rfl
@[simp] theorem State.advanceCursor_time (s : State) :
    s.advanceCursor.time = s.time := rfl
@[simp] theorem State.advanceCursor_log (s : State) :
    s.advanceCursor.log = s.log := rfl
@[simp] theorem State.advanceCursor_notices (s : State) :
    s.advanceCursor.notices = s.notices := rfl
@[simp] theorem State.advanceCursor_freeDraws (s : State) :
    s.advanceCursor.freeDraws = s.freeDraws := rfl
@[simp] theorem State.advanceCursor_pending (s : State) :
    s.advanceCursor.pending = s.pending := rfl

/-! #### `flip` -/

@[simp] theorem State.flip_init (s : State) :
    s.flip.init = s.init := rfl
@[simp] theorem State.flip_dp (s : State) :
    s.flip.dp = s.dp := rfl
@[simp] theorem State.flip_cp (s : State) :
    s.flip.cp = s.cp := rfl
@[simp] theorem State.flip_intake (s : State) :
    s.flip.intake = s.intake := rfl
@[simp] theorem State.flip_forward (s : State) :
    s.flip.forward = s.forward := rfl
@[simp] theorem State.flip_index (s : State) :
    s.flip.index = s.index := rfl
@[simp] theorem State.flip_ranges (s : State) :
    s.flip.ranges = s.ranges := rfl
@[simp] theorem State.flip_cases (s : State) :
    s.flip.cases = s.cases := rfl
@[simp] theorem State.flip_poolFree (s : State) :
    s.flip.poolFree = s.poolFree := rfl
@[simp] theorem State.flip_settle (s : State) :
    s.flip.settle = s.settle := rfl
@[simp] theorem State.flip_actions (s : State) :
    s.flip.actions = s.actions := rfl
@[simp] theorem State.flip_time (s : State) :
    s.flip.time = s.time := rfl
@[simp] theorem State.flip_control (s : State) :
    s.flip.control = s.control := rfl
@[simp] theorem State.flip_log (s : State) :
    s.flip.log = s.log := rfl
@[simp] theorem State.flip_notices (s : State) :
    s.flip.notices = s.notices := rfl
@[simp] theorem State.flip_freeDraws (s : State) :
    s.flip.freeDraws = s.freeDraws := rfl
@[simp] theorem State.flip_pending (s : State) :
    s.flip.pending = s.pending := rfl

/-! #### `setStandbyRow` -/

@[simp] theorem State.setStandbyRow_init (s : State) (o : Operator) (row : OperatorRow) :
    (s.setStandbyRow o row).init = s.init := by unfold State.setStandbyRow; split <;> rfl
@[simp] theorem State.setStandbyRow_dp (s : State) (o : Operator) (row : OperatorRow) :
    (s.setStandbyRow o row).dp = s.dp := by unfold State.setStandbyRow; split <;> rfl
@[simp] theorem State.setStandbyRow_cp (s : State) (o : Operator) (row : OperatorRow) :
    (s.setStandbyRow o row).cp = s.cp := by unfold State.setStandbyRow; split <;> rfl
@[simp] theorem State.setStandbyRow_intake (s : State) (o : Operator) (row : OperatorRow) :
    (s.setStandbyRow o row).intake = s.intake := by unfold State.setStandbyRow; split <;> rfl
@[simp] theorem State.setStandbyRow_forward (s : State) (o : Operator) (row : OperatorRow) :
    (s.setStandbyRow o row).forward = s.forward := by unfold State.setStandbyRow; split <;> rfl
@[simp] theorem State.setStandbyRow_index (s : State) (o : Operator) (row : OperatorRow) :
    (s.setStandbyRow o row).index = s.index := by unfold State.setStandbyRow; split <;> rfl
@[simp] theorem State.setStandbyRow_ranges (s : State) (o : Operator) (row : OperatorRow) :
    (s.setStandbyRow o row).ranges = s.ranges := by unfold State.setStandbyRow; split <;> rfl
@[simp] theorem State.setStandbyRow_cases (s : State) (o : Operator) (row : OperatorRow) :
    (s.setStandbyRow o row).cases = s.cases := by unfold State.setStandbyRow; split <;> rfl
@[simp] theorem State.setStandbyRow_poolFree (s : State) (o : Operator) (row : OperatorRow) :
    (s.setStandbyRow o row).poolFree = s.poolFree := by unfold State.setStandbyRow; split <;> rfl
@[simp] theorem State.setStandbyRow_settle (s : State) (o : Operator) (row : OperatorRow) :
    (s.setStandbyRow o row).settle = s.settle := by unfold State.setStandbyRow; split <;> rfl
@[simp] theorem State.setStandbyRow_actions (s : State) (o : Operator) (row : OperatorRow) :
    (s.setStandbyRow o row).actions = s.actions := by unfold State.setStandbyRow; split <;> rfl
@[simp] theorem State.setStandbyRow_time (s : State) (o : Operator) (row : OperatorRow) :
    (s.setStandbyRow o row).time = s.time := by unfold State.setStandbyRow; split <;> rfl
@[simp] theorem State.setStandbyRow_control (s : State) (o : Operator) (row : OperatorRow) :
    (s.setStandbyRow o row).control = s.control := by unfold State.setStandbyRow; split <;> rfl
@[simp] theorem State.setStandbyRow_log (s : State) (o : Operator) (row : OperatorRow) :
    (s.setStandbyRow o row).log = s.log := by unfold State.setStandbyRow; split <;> rfl
@[simp] theorem State.setStandbyRow_notices (s : State) (o : Operator) (row : OperatorRow) :
    (s.setStandbyRow o row).notices = s.notices := by unfold State.setStandbyRow; split <;> rfl
@[simp] theorem State.setStandbyRow_freeDraws (s : State) (o : Operator) (row : OperatorRow) :
    (s.setStandbyRow o row).freeDraws = s.freeDraws := by unfold State.setStandbyRow; split <;> rfl
@[simp] theorem State.setStandbyRow_pending (s : State) (o : Operator) (row : OperatorRow) :
    (s.setStandbyRow o row).pending = s.pending := by unfold State.setStandbyRow; split <;> rfl

/-! #### `placeRequest` -/

@[simp] theorem State.placeRequest_init (s : State) (q : SettleRequest) (b : Bool) :
    (s.placeRequest q b).init = s.init := by unfold State.placeRequest; split; rfl; split <;> rfl
@[simp] theorem State.placeRequest_dp (s : State) (q : SettleRequest) (b : Bool) :
    (s.placeRequest q b).dp = s.dp := by unfold State.placeRequest; split; rfl; split <;> rfl
@[simp] theorem State.placeRequest_cp (s : State) (q : SettleRequest) (b : Bool) :
    (s.placeRequest q b).cp = s.cp := by unfold State.placeRequest; split; rfl; split <;> rfl
@[simp] theorem State.placeRequest_intake (s : State) (q : SettleRequest) (b : Bool) :
    (s.placeRequest q b).intake = s.intake := by unfold State.placeRequest; split; rfl; split <;> rfl
@[simp] theorem State.placeRequest_forward (s : State) (q : SettleRequest) (b : Bool) :
    (s.placeRequest q b).forward = s.forward := by unfold State.placeRequest; split; rfl; split <;> rfl
@[simp] theorem State.placeRequest_index (s : State) (q : SettleRequest) (b : Bool) :
    (s.placeRequest q b).index = s.index := by unfold State.placeRequest; split; rfl; split <;> rfl
@[simp] theorem State.placeRequest_ranges (s : State) (q : SettleRequest) (b : Bool) :
    (s.placeRequest q b).ranges = s.ranges := by unfold State.placeRequest; split; rfl; split <;> rfl
@[simp] theorem State.placeRequest_cases (s : State) (q : SettleRequest) (b : Bool) :
    (s.placeRequest q b).cases = s.cases := by unfold State.placeRequest; split; rfl; split <;> rfl
@[simp] theorem State.placeRequest_poolFree (s : State) (q : SettleRequest) (b : Bool) :
    (s.placeRequest q b).poolFree = s.poolFree := by unfold State.placeRequest; split; rfl; split <;> rfl
@[simp] theorem State.placeRequest_actions (s : State) (q : SettleRequest) (b : Bool) :
    (s.placeRequest q b).actions = s.actions := by unfold State.placeRequest; split; rfl; split <;> rfl
@[simp] theorem State.placeRequest_policy (s : State) (q : SettleRequest) (b : Bool) :
    (s.placeRequest q b).policy = s.policy := by unfold State.placeRequest; split; rfl; split <;> rfl
@[simp] theorem State.placeRequest_time (s : State) (q : SettleRequest) (b : Bool) :
    (s.placeRequest q b).time = s.time := by unfold State.placeRequest; split; rfl; split <;> rfl
@[simp] theorem State.placeRequest_control (s : State) (q : SettleRequest) (b : Bool) :
    (s.placeRequest q b).control = s.control := by unfold State.placeRequest; split; rfl; split <;> rfl
@[simp] theorem State.placeRequest_log (s : State) (q : SettleRequest) (b : Bool) :
    (s.placeRequest q b).log = s.log := by unfold State.placeRequest; split; rfl; split <;> rfl
@[simp] theorem State.placeRequest_notices (s : State) (q : SettleRequest) (b : Bool) :
    (s.placeRequest q b).notices = s.notices := by unfold State.placeRequest; split; rfl; split <;> rfl
@[simp] theorem State.placeRequest_freeDraws (s : State) (q : SettleRequest) (b : Bool) :
    (s.placeRequest q b).freeDraws = s.freeDraws := by unfold State.placeRequest; split; rfl; split <;> rfl
@[simp] theorem State.placeRequest_pending (s : State) (q : SettleRequest) (b : Bool) :
    (s.placeRequest q b).pending = s.pending := by unfold State.placeRequest; split; rfl; split <;> rfl

/-! #### `placeEvidence` -/

@[simp] theorem State.placeEvidence_init (s : State) (c : Nat) :
    (s.placeEvidence c).init = s.init := by unfold State.placeEvidence; split <;> simp
@[simp] theorem State.placeEvidence_dp (s : State) (c : Nat) :
    (s.placeEvidence c).dp = s.dp := by unfold State.placeEvidence; split <;> simp
@[simp] theorem State.placeEvidence_cp (s : State) (c : Nat) :
    (s.placeEvidence c).cp = s.cp := by unfold State.placeEvidence; split <;> simp
@[simp] theorem State.placeEvidence_intake (s : State) (c : Nat) :
    (s.placeEvidence c).intake = s.intake := by unfold State.placeEvidence; split <;> simp
@[simp] theorem State.placeEvidence_forward (s : State) (c : Nat) :
    (s.placeEvidence c).forward = s.forward := by unfold State.placeEvidence; split <;> simp
@[simp] theorem State.placeEvidence_index (s : State) (c : Nat) :
    (s.placeEvidence c).index = s.index := by unfold State.placeEvidence; split <;> simp
@[simp] theorem State.placeEvidence_ranges (s : State) (c : Nat) :
    (s.placeEvidence c).ranges = s.ranges := by unfold State.placeEvidence; split <;> simp
@[simp] theorem State.placeEvidence_cases (s : State) (c : Nat) :
    (s.placeEvidence c).cases = s.cases := by unfold State.placeEvidence; split <;> simp
@[simp] theorem State.placeEvidence_poolFree (s : State) (c : Nat) :
    (s.placeEvidence c).poolFree = s.poolFree := by unfold State.placeEvidence; split <;> simp
@[simp] theorem State.placeEvidence_actions (s : State) (c : Nat) :
    (s.placeEvidence c).actions = s.actions := by unfold State.placeEvidence; split <;> simp
@[simp] theorem State.placeEvidence_policy (s : State) (c : Nat) :
    (s.placeEvidence c).policy = s.policy := by unfold State.placeEvidence; split <;> simp
@[simp] theorem State.placeEvidence_time (s : State) (c : Nat) :
    (s.placeEvidence c).time = s.time := by unfold State.placeEvidence; split <;> simp
@[simp] theorem State.placeEvidence_control (s : State) (c : Nat) :
    (s.placeEvidence c).control = s.control := by unfold State.placeEvidence; split <;> simp
@[simp] theorem State.placeEvidence_log (s : State) (c : Nat) :
    (s.placeEvidence c).log = s.log := by unfold State.placeEvidence; split <;> simp
@[simp] theorem State.placeEvidence_notices (s : State) (c : Nat) :
    (s.placeEvidence c).notices = s.notices := by unfold State.placeEvidence; split <;> simp
@[simp] theorem State.placeEvidence_freeDraws (s : State) (c : Nat) :
    (s.placeEvidence c).freeDraws = s.freeDraws := by unfold State.placeEvidence; split <;> simp
@[simp] theorem State.placeEvidence_pending (s : State) (c : Nat) :
    (s.placeEvidence c).pending = s.pending := by unfold State.placeEvidence; split <;> simp

/-! #### `writeReply` -/

@[simp] theorem State.writeReply_init (s : State) (e : ReplyEntry) :
    (s.writeReply e).init = s.init := by unfold State.writeReply; split <;> rfl
@[simp] theorem State.writeReply_dp (s : State) (e : ReplyEntry) :
    (s.writeReply e).dp = s.dp := by unfold State.writeReply; split <;> rfl
@[simp] theorem State.writeReply_cp (s : State) (e : ReplyEntry) :
    (s.writeReply e).cp = s.cp := by unfold State.writeReply; split <;> rfl
@[simp] theorem State.writeReply_intake (s : State) (e : ReplyEntry) :
    (s.writeReply e).intake = s.intake := by unfold State.writeReply; split <;> rfl
@[simp] theorem State.writeReply_forward (s : State) (e : ReplyEntry) :
    (s.writeReply e).forward = s.forward := by unfold State.writeReply; split <;> rfl
@[simp] theorem State.writeReply_index (s : State) (e : ReplyEntry) :
    (s.writeReply e).index = s.index := by unfold State.writeReply; split <;> rfl
@[simp] theorem State.writeReply_ranges (s : State) (e : ReplyEntry) :
    (s.writeReply e).ranges = s.ranges := by unfold State.writeReply; split <;> rfl
@[simp] theorem State.writeReply_cases (s : State) (e : ReplyEntry) :
    (s.writeReply e).cases = s.cases := by unfold State.writeReply; split <;> rfl
@[simp] theorem State.writeReply_poolFree (s : State) (e : ReplyEntry) :
    (s.writeReply e).poolFree = s.poolFree := by unfold State.writeReply; split <;> rfl
@[simp] theorem State.writeReply_settle (s : State) (e : ReplyEntry) :
    (s.writeReply e).settle = s.settle := by unfold State.writeReply; split <;> rfl
@[simp] theorem State.writeReply_actions (s : State) (e : ReplyEntry) :
    (s.writeReply e).actions = s.actions := by unfold State.writeReply; split <;> rfl
@[simp] theorem State.writeReply_policy (s : State) (e : ReplyEntry) :
    (s.writeReply e).policy = s.policy := by unfold State.writeReply; split <;> rfl
@[simp] theorem State.writeReply_time (s : State) (e : ReplyEntry) :
    (s.writeReply e).time = s.time := by unfold State.writeReply; split <;> rfl
@[simp] theorem State.writeReply_log (s : State) (e : ReplyEntry) :
    (s.writeReply e).log = s.log := by unfold State.writeReply; split <;> rfl
@[simp] theorem State.writeReply_notices (s : State) (e : ReplyEntry) :
    (s.writeReply e).notices = s.notices := by unfold State.writeReply; split <;> rfl
@[simp] theorem State.writeReply_freeDraws (s : State) (e : ReplyEntry) :
    (s.writeReply e).freeDraws = s.freeDraws := by unfold State.writeReply; split <;> rfl
@[simp] theorem State.writeReply_pending (s : State) (e : ReplyEntry) :
    (s.writeReply e).pending = s.pending := by unfold State.writeReply; split <;> rfl

/-! #### `completeHeld` -/

@[simp] theorem State.completeHeld_init (s : State) (h : HeldCommand) :
    (s.completeHeld h).init = s.init := by unfold State.completeHeld; split; split <;> simp; rfl
@[simp] theorem State.completeHeld_dp (s : State) (h : HeldCommand) :
    (s.completeHeld h).dp = s.dp := by unfold State.completeHeld; split; split <;> simp; rfl
@[simp] theorem State.completeHeld_cp (s : State) (h : HeldCommand) :
    (s.completeHeld h).cp = s.cp := by unfold State.completeHeld; split; split <;> simp; rfl
@[simp] theorem State.completeHeld_intake (s : State) (h : HeldCommand) :
    (s.completeHeld h).intake = s.intake := by unfold State.completeHeld; split; split <;> simp; rfl
@[simp] theorem State.completeHeld_forward (s : State) (h : HeldCommand) :
    (s.completeHeld h).forward = s.forward := by unfold State.completeHeld; split; split <;> simp; rfl
@[simp] theorem State.completeHeld_index (s : State) (h : HeldCommand) :
    (s.completeHeld h).index = s.index := by unfold State.completeHeld; split; split <;> simp; rfl
@[simp] theorem State.completeHeld_ranges (s : State) (h : HeldCommand) :
    (s.completeHeld h).ranges = s.ranges := by unfold State.completeHeld; split; split <;> simp; rfl
@[simp] theorem State.completeHeld_cases (s : State) (h : HeldCommand) :
    (s.completeHeld h).cases = s.cases := by unfold State.completeHeld; split; split <;> simp; rfl
@[simp] theorem State.completeHeld_poolFree (s : State) (h : HeldCommand) :
    (s.completeHeld h).poolFree = s.poolFree := by unfold State.completeHeld; split; split <;> simp; rfl
@[simp] theorem State.completeHeld_settle (s : State) (h : HeldCommand) :
    (s.completeHeld h).settle = s.settle := by unfold State.completeHeld; split; split <;> simp; rfl
@[simp] theorem State.completeHeld_actions (s : State) (h : HeldCommand) :
    (s.completeHeld h).actions = s.actions := by unfold State.completeHeld; split; split <;> simp; rfl
@[simp] theorem State.completeHeld_policy (s : State) (h : HeldCommand) :
    (s.completeHeld h).policy = s.policy := by unfold State.completeHeld; split; split <;> simp; rfl
@[simp] theorem State.completeHeld_time (s : State) (h : HeldCommand) :
    (s.completeHeld h).time = s.time := by unfold State.completeHeld; split; split <;> simp; rfl
@[simp] theorem State.completeHeld_log (s : State) (h : HeldCommand) :
    (s.completeHeld h).log = s.log := by unfold State.completeHeld; split; split <;> simp; rfl
@[simp] theorem State.completeHeld_notices (s : State) (h : HeldCommand) :
    (s.completeHeld h).notices = s.notices := by unfold State.completeHeld; split; split <;> simp; rfl
@[simp] theorem State.completeHeld_freeDraws (s : State) (h : HeldCommand) :
    (s.completeHeld h).freeDraws = s.freeDraws := by unfold State.completeHeld; split; split <;> simp; rfl
@[simp] theorem State.completeHeld_pending (s : State) (h : HeldCommand) :
    (s.completeHeld h).pending = s.pending := by unfold State.completeHeld; split; split <;> simp; rfl

/-! #### `finish` -/

@[simp] theorem State.finish_init (s : State) (k : Byte) (a : Response) :
    (s.finish k a).init = s.init := by unfold State.finish; split; simp; split <;> rfl
@[simp] theorem State.finish_dp (s : State) (k : Byte) (a : Response) :
    (s.finish k a).dp = s.dp := by unfold State.finish; split; simp; split <;> rfl
@[simp] theorem State.finish_cp (s : State) (k : Byte) (a : Response) :
    (s.finish k a).cp = s.cp := by unfold State.finish; split; simp; split <;> rfl
@[simp] theorem State.finish_intake (s : State) (k : Byte) (a : Response) :
    (s.finish k a).intake = s.intake := by unfold State.finish; split; simp; split <;> rfl
@[simp] theorem State.finish_forward (s : State) (k : Byte) (a : Response) :
    (s.finish k a).forward = s.forward := by unfold State.finish; split; simp; split <;> rfl
@[simp] theorem State.finish_index (s : State) (k : Byte) (a : Response) :
    (s.finish k a).index = s.index := by unfold State.finish; split; simp; split <;> rfl
@[simp] theorem State.finish_ranges (s : State) (k : Byte) (a : Response) :
    (s.finish k a).ranges = s.ranges := by unfold State.finish; split; simp; split <;> rfl
@[simp] theorem State.finish_cases (s : State) (k : Byte) (a : Response) :
    (s.finish k a).cases = s.cases := by unfold State.finish; split; simp; split <;> rfl
@[simp] theorem State.finish_poolFree (s : State) (k : Byte) (a : Response) :
    (s.finish k a).poolFree = s.poolFree := by unfold State.finish; split; simp; split <;> rfl
@[simp] theorem State.finish_settle (s : State) (k : Byte) (a : Response) :
    (s.finish k a).settle = s.settle := by unfold State.finish; split; simp; split <;> rfl
@[simp] theorem State.finish_actions (s : State) (k : Byte) (a : Response) :
    (s.finish k a).actions = s.actions := by unfold State.finish; split; simp; split <;> rfl
@[simp] theorem State.finish_policy (s : State) (k : Byte) (a : Response) :
    (s.finish k a).policy = s.policy := by unfold State.finish; split; simp; split <;> rfl
@[simp] theorem State.finish_time (s : State) (k : Byte) (a : Response) :
    (s.finish k a).time = s.time := by unfold State.finish; split; simp; split <;> rfl
@[simp] theorem State.finish_log (s : State) (k : Byte) (a : Response) :
    (s.finish k a).log = s.log := by unfold State.finish; split; simp; split <;> rfl
@[simp] theorem State.finish_notices (s : State) (k : Byte) (a : Response) :
    (s.finish k a).notices = s.notices := by unfold State.finish; split; simp; split <;> rfl
@[simp] theorem State.finish_freeDraws (s : State) (k : Byte) (a : Response) :
    (s.finish k a).freeDraws = s.freeDraws := by unfold State.finish; split; simp; split <;> rfl
@[simp] theorem State.finish_pending (s : State) (k : Byte) (a : Response) :
    (s.finish k a).pending = s.pending := by unfold State.finish; split; simp; split <;> rfl

/-! ### The field an update writes -/

@[simp] theorem State.setCase_cases (s : State) (c : Nat) (r : CaseRecord) :
    (s.setCase c r).cases = tableSet CaseRecord.reset s.cases c r := rfl

@[simp] theorem State.enqueue_actions (s : State) (e : ActionEntry) :
    (s.enqueue e).actions = { s.actions with untaken := s.actions.untaken ++ [e] } := rfl

@[simp] theorem State.dropRequest_settle (s : State) (c : Nat) :
    (s.dropRequest c).settle = { s.settle with fifo := s.settle.fifo.filter (fun w => w.caseNo != c) } := rfl

@[simp] theorem State.removeCards_index (s : State) (c : Nat) :
    (s.removeCards c).index = s.index.filter (fun e => e.caseNo != c) := rfl

@[simp] theorem State.addCards_index (s : State) (c : Nat) (o n : CardId) :
    (s.addCards c o n).index = indexInsert (indexInsert s.index ⟨o, c, .old⟩) ⟨n, c, .new⟩ := rfl

@[simp] theorem State.logRecord_log (s : State) (r : LogRecord) : (s.logRecord r).log = s.log.write r := rfl

@[simp] theorem State.logException_log (s : State) (c : Option Nat) (k : Option CardId) (d : Option DeviceId)
    (x : ExceptionDetail) : (s.logException c k d x).log = s.log.write ⟨c, k, d, s.time.now, x⟩ := rfl

@[simp] theorem State.setWindow_control (s : State) (w : TableWindow) :
    (s.setWindow w).control = { s.control with window := w } := rfl

@[simp] theorem State.flip_policy (s : State) :
    s.flip.policy = { s.policy with active := s.policy.active.other, switchPending := false } := rfl

/-- The window and the counter of the Control Unit stay under a reply entry. -/
@[simp] theorem State.writeReply_window (s : State) (e : ReplyEntry) :
    (s.writeReply e).control.window = s.control.window := by unfold State.writeReply; split <;> rfl

@[simp] theorem State.writeReply_dropped (s : State) (e : ReplyEntry) :
    (s.writeReply e).control.dropped = s.control.dropped := by unfold State.writeReply; split <;> rfl

@[simp] theorem State.completeHeld_dropped (s : State) (h : HeldCommand) :
    (s.completeHeld h).control.dropped = s.control.dropped := by
  unfold State.completeHeld; split; split <;> simp; rfl

@[simp] theorem State.finish_dropped (s : State) (k : Byte) (a : Response) :
    (s.finish k a).control.dropped = s.control.dropped := by unfold State.finish; split; simp; split <;> rfl

@[simp] theorem State.placeRequest_inFlight (s : State) (q : SettleRequest) (b : Bool) :
    (s.placeRequest q b).settle.inFlight = s.settle.inFlight := by
  unfold State.placeRequest; split; rfl; split <;> rfl

@[simp] theorem State.enqueue_taken (s : State) (e : ActionEntry) : (s.enqueue e).actions.taken = s.actions.taken := rfl

end Sys2Proof.Machine
end

