-- ==== Sys2Proof/Laws/Table.lean ====
section
/-! SUPPORT. The sparse tables in canonical form: reading after writing, that every table operation keeps the form, and what a
write does to the members and to a sum over them. -/

namespace Sys2Proof.Machine

variable {α : Type} {d : α} {m : List (Nat × α)}

/-! ### Reading -/

theorem tableGet_of_not_mem {k : Nat} (h : ∀ e ∈ m, e.1 ≠ k) : tableGet d m k = d := by
  induction m with
  | nil => rfl
  | cons x xs ih =>
    simp only [tableGet]
    rw [if_neg (h x (by simp))]
    exact ih fun e he => h e (by simp [he])

/-- What a table holds at a number is listed there, or is what an unlisted number reads as. -/
theorem tableGet_mem_or (d : α) (m : List (Nat × α)) (k : Nat) :
    (k, tableGet d m k) ∈ m ∨ tableGet d m k = d := by
  induction m with
  | nil => exact .inr rfl
  | cons x xs ih =>
    simp only [tableGet]
    split
    · next h => exact .inl (by simp [← h])
    · rcases ih with h | h
      · exact .inl (by simp [h])
      · exact .inr h

theorem tableGet_of_mem {k : Nat} {v : α} (hw : m.Pairwise (fun a b => a.1 < b.1)) (h : (k, v) ∈ m) :
    tableGet d m k = v := by
  induction m with
  | nil => simp at h
  | cons x xs ih =>
    simp only [List.pairwise_cons] at hw
    simp only [tableGet]
    rcases List.mem_cons.mp h with rfl | h'
    · simp
    · rw [if_neg (Nat.ne_of_lt (hw.1 _ h')), ih hw.2 h']

/-- A property of what unlisted numbers read as and of every listed entry holds of everything read. -/
theorem tableGet_all {p : α → Prop} (hd : p d) (hm : ∀ e ∈ m, p e.2) (k : Nat) : p (tableGet d m k) := by
  rcases tableGet_mem_or d m k with h | h
  · exact hm _ h
  · rw [h]; exact hd

/-! ### Writing -/

theorem mem_tableErase {k : Nat} {e : Nat × α} (h : e ∈ tableErase m k) : e ∈ m := by
  induction m with
  | nil => simp [tableErase] at h
  | cons x xs ih =>
    simp only [tableErase] at h
    split at h
    · simp [h]
    · rcases List.mem_cons.mp h with rfl | h'
      · simp
      · simp [ih h']

theorem mem_tableInsert {k : Nat} {v : α} {e : Nat × α} (h : e ∈ tableInsert m k v) : e = (k, v) ∨ e ∈ m := by
  induction m with
  | nil => simpa [tableInsert] using h
  | cons x xs ih =>
    simp only [tableInsert] at h
    split at h
    · rcases List.mem_cons.mp h with rfl | h' <;> simp [*]
    · split at h
      · rcases List.mem_cons.mp h with rfl | h'
        · simp
        · exact .inr h'
      · rcases List.mem_cons.mp h with rfl | h'
        · simp
        · rcases ih h' with h'' | h'' <;> simp [h'']

/-- An entry of a written table is the written one or was listed before. -/
theorem mem_tableSet [DecidableEq α] {k : Nat} {v : α} {e : Nat × α} (h : e ∈ tableSet d m k v) :
    e = (k, v) ∨ e ∈ m := by
  unfold tableSet at h
  split at h
  · exact .inr (mem_tableErase h)
  · exact mem_tableInsert h

theorem tableErase_not_mem {k : Nat} (hw : m.Pairwise (fun a b => a.1 < b.1)) :
    ∀ e ∈ tableErase m k, e.1 ≠ k := by
  induction m with
  | nil => simp [tableErase]
  | cons x xs ih =>
    simp only [List.pairwise_cons] at hw
    simp only [tableErase]
    split
    · next h => exact fun e he => h ▸ Nat.ne_of_gt (hw.1 e he)
    · next h =>
      intro e he
      rcases List.mem_cons.mp he with rfl | he'
      · exact h
      · exact ih hw.2 e he'

theorem tableGet_erase_other {k j : Nat} (h : j ≠ k) : tableGet d (tableErase m k) j = tableGet d m j := by
  induction m with
  | nil => rfl
  | cons x xs ih =>
    simp only [tableErase]
    split
    · next hx => simp only [tableGet]; rw [if_neg (by omega)]
    · simp only [tableGet]; rw [ih]

theorem tableGet_insert_same {k : Nat} {v : α} : tableGet d (tableInsert m k v) k = v := by
  induction m with
  | nil => simp [tableInsert, tableGet]
  | cons x xs ih =>
    simp only [tableInsert]
    split
    · simp [tableGet]
    · split
      · simp [tableGet]
      · next h _ => simp only [tableGet]; rw [if_neg h, ih]

theorem tableGet_insert_other {k j : Nat} {v : α} (h : j ≠ k) :
    tableGet d (tableInsert m k v) j = tableGet d m j := by
  induction m with
  | nil => simp [tableInsert, tableGet, Ne.symm h]
  | cons x xs ih =>
    simp only [tableInsert]
    split
    · next hx => simp only [tableGet]; rw [if_neg (Ne.symm h), if_neg (by omega)]
    · split
      · simp only [tableGet]; rw [if_neg (Ne.symm h)]
      · simp only [tableGet]; rw [ih]

/-- Reading the number just written gives the value written. -/
theorem tableGet_set_same [DecidableEq α] (hw : m.Pairwise (fun a b => a.1 < b.1)) (k : Nat) (v : α) :
    tableGet d (tableSet d m k v) k = v := by
  unfold tableSet
  split
  · next h => rw [tableGet_of_not_mem (tableErase_not_mem hw), h]
  · exact tableGet_insert_same

/-- Reading another number gives what it held. -/
theorem tableGet_set_other [DecidableEq α] {k j : Nat} {v : α} (h : j ≠ k) :
    tableGet d (tableSet d m k v) j = tableGet d m j := by
  unfold tableSet
  split
  · exact tableGet_erase_other h
  · exact tableGet_insert_other h

/-! ### The canonical form -/

theorem tableErase_rising {k : Nat} (hw : m.Pairwise (fun a b => a.1 < b.1)) :
    (tableErase m k).Pairwise (fun a b => a.1 < b.1) := by
  induction m with
  | nil => simp [tableErase]
  | cons x xs ih =>
    simp only [List.pairwise_cons] at hw
    simp only [tableErase]
    split
    · exact hw.2
    · exact List.pairwise_cons.mpr ⟨fun e he => hw.1 e (mem_tableErase he), ih hw.2⟩

theorem tableInsert_rising {k : Nat} {v : α} (hw : m.Pairwise (fun a b => a.1 < b.1)) :
    (tableInsert m k v).Pairwise (fun a b => a.1 < b.1) := by
  induction m with
  | nil => simp [tableInsert]
  | cons x xs ih =>
    simp only [List.pairwise_cons] at hw
    simp only [tableInsert]
    split
    · next h => exact List.pairwise_cons.mpr ⟨fun e he => by simpa [← h] using hw.1 e he, hw.2⟩
    · split
      · next h =>
        refine List.pairwise_cons.mpr ⟨fun e he => ?_, List.pairwise_cons.mpr hw⟩
        rcases List.mem_cons.mp he with rfl | he'
        · exact h
        · exact Nat.lt_trans h (hw.1 e he')
      · next h1 h2 =>
        refine List.pairwise_cons.mpr ⟨fun e he => ?_, ih hw.2⟩
        rcases mem_tableInsert he with rfl | he'
        · exact Nat.lt_of_le_of_ne (Nat.le_of_not_lt h2) h1
        · exact hw.1 e he'

/-- Every write keeps the canonical form. -/
theorem tableSet_wf [DecidableEq α] (hw : tableWf d m) (k : Nat) (v : α) : tableWf d (tableSet d m k v) := by
  unfold tableSet
  split
  · exact ⟨tableErase_rising hw.1, fun e he => hw.2 e (mem_tableErase he)⟩
  · next h =>
    refine ⟨tableInsert_rising hw.1, fun e he => ?_⟩
    rcases mem_tableInsert he with rfl | he'
    · exact h
    · exact hw.2 e he'

/-! ### A sum over a table -/

/-- A sum over a table, when what unlisted numbers read as counts nothing: a write adds what the new value counts and takes away
what the old one counted. -/
theorem sum_tableSet [DecidableEq α] (f : α → Nat) (hd : f d = 0) (hw : m.Pairwise (fun a b => a.1 < b.1)) (k : Nat) (v : α) :
    ((tableSet d m k v).map (fun e => f e.2)).sum + f (tableGet d m k) = (m.map (fun e => f e.2)).sum + f v := by
  have insert_sum : ∀ m : List (Nat × α), m.Pairwise (fun a b => a.1 < b.1) →
      ((tableInsert m k v).map (fun e => f e.2)).sum + f (tableGet d m k) = (m.map (fun e => f e.2)).sum + f v := by
    intro m hm
    induction m with
    | nil => simp [tableInsert, tableGet, hd]
    | cons x xs ih =>
      simp only [List.pairwise_cons] at hm
      simp only [tableInsert, tableGet]
      split
      · simp; omega
      · split
        · next h1 h2 =>
          rw [tableGet_of_not_mem fun e he => by have := hm.1 e he; omega]
          simp [hd]; omega
        · have := ih hm.2
          simp; omega
  have erase_sum : ∀ m : List (Nat × α),
      ((tableErase m k).map (fun e => f e.2)).sum + f (tableGet d m k) = (m.map (fun e => f e.2)).sum := by
    intro m
    induction m with
    | nil => simp [tableErase, tableGet, hd]
    | cons x xs ih =>
      simp only [tableErase, tableGet]
      split
      · simp; omega
      · simp; omega
  unfold tableSet
  split
  · next h => rw [erase_sum, h, hd, Nat.add_zero]
  · exact insert_sum m hw

/-! ### The Case Table -/

@[simp] theorem State.caseAt_setCase_same (s : State) (h : tableWf CaseRecord.reset s.cases) (c : Nat) (r : CaseRecord) :
    (s.setCase c r).caseAt c = r := tableGet_set_same h.1 c r

theorem State.caseAt_setCase_other (s : State) {c j : Nat} (h : j ≠ c) (r : CaseRecord) :
    (s.setCase c r).caseAt j = s.caseAt j := tableGet_set_other h

theorem State.setCase_wf (s : State) (h : tableWf CaseRecord.reset s.cases) (c : Nat) (r : CaseRecord) :
    tableWf CaseRecord.reset (s.setCase c r).cases := tableSet_wf h c r

theorem State.caseAt_congr {s t : State} (h : s.cases = t.cases) (c : Nat) : s.caseAt c = t.caseAt c := by
  unfold State.caseAt; rw [h]

/-- A case number whose record is not the hard-reset one is listed. -/
theorem State.listed_of_ne_free (s : State) (c : Nat) (h : (s.caseAt c).state ≠ .free) : (c, s.caseAt c) ∈ s.cases := by
  rcases tableGet_mem_or CaseRecord.reset s.cases c with hm | hr
  · exact hm
  · exact absurd (by unfold State.caseAt; rw [hr]; rfl) h

/-- The next expiry's record is the record of its case, and its deadline is reached. -/
theorem State.nextDue_spec {s : State} {c : Nat} {r : CaseRecord} (h : s.nextDue = some (c, r)) :
    (c, r) ∈ s.cases ∧ r.isDue s.time.now = true :=
  ⟨List.mem_of_find?_eq_some h, (List.find?_eq_some_iff_append.mp h).1⟩

/-- What a due case of a kind is. -/
theorem State.dueOf_spec {s : State} {k : DeadlineKind} {c : Nat} {r : CaseRecord} (h : s.dueOf k = some (c, r)) :
    (c, r) ∈ s.cases ∧ r.isDue s.time.now = true ∧ r.deadline.map Deadline.kind = some k := by
  unfold State.dueOf at h
  split at h
  · next c' r' hn =>
    split at h
    · next hk =>
      cases h
      exact ⟨(State.nextDue_spec hn).1, (State.nextDue_spec hn).2, hk⟩
    · cases h
  · cases h

/-- The hard-reset table is in canonical form. -/
theorem reset_tableWf : tableWf CaseRecord.reset State.reset.cases := ⟨List.Pairwise.nil, by simp [State.reset]⟩

end Sys2Proof.Machine
end

