-- ==== Sys2Proof/Laws/Ops.lean ====
section
/-! SUPPORT. What each shared operation can do, said once: counters, the Exception Log, the case event queue, the settle request
FIFO, the Action Queue, and the execution of a command entry. -/

namespace Sys2Proof.Machine

/-! ### Counters -/

/-- A counter counts one more, or stays at 65,535 (R175). -/
theorem bump_eq (n : Nat) (h : n ≤ 65535) : bump n = min (n + 1) 65535 := by
  unfold bump Config.counterMax; split <;> omega

theorem bump_le (n : Nat) (h : n ≤ 65535) : bump n ≤ 65535 := by rw [bump_eq n h]; omega

/-! ### The Exception Log -/

/-- The three things a log write can do (R179): lose the exception, write it, or set overflow and lose it. -/
theorem ExceptionLog.write_cases (l : ExceptionLog) (r : LogRecord) :
    (l.overflow = true ∧ l.write r = { l with lost := bump l.lost })
    ∨ (l.overflow = false ∧ l.records[l.writeIndex] = none
        ∧ l.write r = { l with records := l.records.set l.writeIndex (some r), writeIndex := l.writeIndex + 1 })
    ∨ (l.overflow = false ∧ l.records[l.writeIndex].isSome = true
        ∧ l.write r = { l with overflow := true, lost := bump l.lost }) := by
  unfold ExceptionLog.write
  by_cases ho : l.overflow = true
  · exact .inl ⟨ho, by simp [ho]⟩
  · have ho' : l.overflow = false := by simpa using ho
    cases l.records[l.writeIndex] with
    | none => exact .inr (.inl ⟨ho', rfl, by simp [ho']⟩)
    | some x => exact .inr (.inr ⟨ho', rfl, by simp [ho']⟩)

/-- A log write leaves the lost counter, or counts one. -/
theorem ExceptionLog.write_lost_le (l : ExceptionLog) (r : LogRecord) (h : l.lost ≤ 65535) : (l.write r).lost ≤ 65535 := by
  rcases l.write_cases r with ⟨_, e⟩ | ⟨_, _, e⟩ | ⟨_, _, e⟩ <;> rw [e]
  · exact bump_le _ h
  · exact h
  · exact bump_le _ h

/-- Logging an exception changes the log and the LOG pending flag only. -/
theorem State.logRecord_notices (s : State) (r : LogRecord) :
    (s.logRecord r).notices
      = { s.notices with logPending := s.notices.logPending || s.log.arises (s.log.write r) } := rfl

@[simp] theorem State.logException_taken (s : State) (c : Option Nat) (k : Option CardId) (d : Option DeviceId)
    (x : ExceptionDetail) : (s.logException c k d x).notices.taken = s.notices.taken := rfl

@[simp] theorem State.logException_untaken (s : State) (c : Option Nat) (k : Option CardId) (d : Option DeviceId)
    (x : ExceptionDetail) : (s.logException c k d x).notices.untaken = s.notices.untaken := rfl

@[simp] theorem State.logException_lostEvents (s : State) (c : Option Nat) (k : Option CardId) (d : Option DeviceId)
    (x : ExceptionDetail) : (s.logException c k d x).notices.lost = s.notices.lost := rfl

@[simp] theorem State.logException_parcel (s : State) (c : Option Nat) (k : Option CardId) (d : Option DeviceId)
    (x : ExceptionDetail) : (s.logException c k d x).notices.parcel = s.notices.parcel := rfl

/-! ### The case event queue -/

/-- An event joins the queue, or is dropped and counted at 64 (R182). -/
theorem NoticeUnit.raise_cases (n : NoticeUnit) (e : CaseEvent) :
    (n.taken.length + n.untaken.length < 64 ∧ n.raise e = { n with untaken := n.untaken ++ [e], casePending := true })
    ∨ (64 ≤ n.taken.length + n.untaken.length ∧
        n.raise e = { n with lost := bump n.lost, casePending := !n.untaken.isEmpty }) := by
  unfold NoticeUnit.raise NoticeUnit.refreshPending Config.eventQueue
  split
  · next h => exact .inl ⟨h, by simp⟩
  · next h => exact .inr ⟨by omega, rfl⟩

/-- Raising an event never touches what has been taken into a notice parcel. -/
theorem NoticeUnit.raise_keeps (n : NoticeUnit) (e : CaseEvent) :
    (n.raise e).taken = n.taken ∧ (n.raise e).parcel = n.parcel ∧ (n.raise e).seq = n.seq
      ∧ (n.raise e).caseMasked = n.caseMasked ∧ (n.raise e).logMasked = n.logMasked
      ∧ (n.raise e).logPending = n.logPending := by
  rcases n.raise_cases e with ⟨_, h⟩ | ⟨_, h⟩ <;> rw [h] <;> exact ⟨rfl, rfl, rfl, rfl, rfl, rfl⟩

/-! ### The settle request FIFO -/

/-- What placing a request can do (R77): join the tail, take the waiting request's place, or be dropped. -/
theorem State.placeRequest_spec (s : State) (q : SettleRequest) (b : Bool) :
    ((∀ w ∈ s.settle.fifo, w.caseNo ≠ q.caseNo) ∧ (s.placeRequest q b).settle.fifo = s.settle.fifo ++ [q])
    ∨ (s.placeRequest q b).settle.fifo = s.settle.fifo.map (fun x => if x.caseNo = q.caseNo then q else x)
    ∨ s.placeRequest q b = s := by
  unfold State.placeRequest
  split
  · next h =>
    refine .inl ⟨fun w hw hc => ?_, rfl⟩
    have := List.find?_eq_none.mp h w hw
    simp [hc] at this
  · split
    · exact .inr (.inl rfl)
    · exact .inr (.inr rfl)

/-- No two requests of the FIFO share a case, and placing one keeps it so (R75). -/
theorem State.placeRequest_nodup (s : State) (q : SettleRequest) (b : Bool)
    (h : (s.settle.fifo.map SettleRequest.caseNo).Nodup) :
    ((s.placeRequest q b).settle.fifo.map SettleRequest.caseNo).Nodup := by
  rcases s.placeRequest_spec q b with ⟨hn, e⟩ | e | e
  · rw [e, List.map_append, List.nodup_append]
    refine ⟨h, by simp, ?_⟩
    intro a ha x hx hax
    obtain ⟨w, hw, rfl⟩ := List.mem_map.mp ha
    simp at hx
    exact hn w hw (hax.trans hx)
  · rw [e, List.map_map]
    have : (SettleRequest.caseNo ∘ fun x => if x.caseNo = q.caseNo then q else x) = SettleRequest.caseNo := by
      funext x
      simp only [Function.comp]
      split
      · next hx => exact hx.symm
      · rfl
    rw [this]; exact h
  · rw [e]; exact h

/-! ### The Action Queue -/

/-- An entry the queue admits keeps its depth within 256 (R119, R120). -/
theorem State.enqueue_depth (s : State) (e : ActionEntry) : (s.enqueue e).actions.depth = s.actions.depth + 1 := by
  simp [State.enqueue, ActionUnit.depth]; omega

theorem State.admitsOther_iff (s : State) : s.admitsOther = true ↔ s.actions.depth < 256 := by
  exact decide_eq_true_iff

theorem State.admitsRestore_iff (s : State) : s.admitsRestore = true ↔ s.actions.depth < 192 := by
  exact decide_eq_true_iff

/-! ### The Control Unit -/

/-- Writing a reply entry while a parcel is executed (R163). -/
theorem State.writeReply_executing {s : State} {replies : List ReplyEntry} {held : Option HeldCommand} {p : ControlParcel}
    (e : ReplyEntry) (hp : s.control.phase = .executing replies held) (hq : s.headParcel = some p) :
    s.writeReply e = { s with control := { s.control with phase := phaseAfter p.entries.length (replies ++ [e]) } } := by
  unfold State.writeReply; rw [hp, hq]; rfl

/-- There is a next entry exactly while a parcel is executed, not held by a command, with an entry left (R163). -/
theorem State.nextEntry_spec {s : State} {entry : List Byte} (h : s.nextEntry = some entry) :
    ∃ replies p, s.control.phase = .executing replies none ∧ s.headParcel = some p
      ∧ p.entries[replies.length]? = some entry := by
  unfold State.nextEntry at h
  split at h
  · next replies p h1 h2 => exact ⟨replies, p, h1, h2, h⟩
  · cases h

/-- What executing the next command entry can do (R163, R165). -/
theorem State.execute_cases {α : Type} (s : State) (code : Byte) (read : List Byte → Option α)
    (run : State → α → State × Response) :
    s.execute code read run = s
    ∨ (∃ entry status, s.nextEntry = some entry ∧ s.execute code read run = s.writeReply ⟨code, status, .none⟩)
    ∨ ∃ entry a, s.nextEntry = some entry ∧ ¬(s.init = .initializing ∧ code ≠ readStatusCode)
        ∧ read (entryArgs entry) = some a ∧ s.execute code read run = (run s a).1.finish code (run s a).2 := by
  unfold State.execute
  cases hn : s.nextEntry with
  | none => exact .inl rfl
  | some entry =>
    by_cases hc : entryCode entry = code
    · by_cases hi : s.init = .initializing ∧ code ≠ readStatusCode
      · exact .inr (.inl ⟨entry, .initializing, rfl, by simp only [hc, if_true]; rw [if_pos hi]⟩)
      · cases hr : read (entryArgs entry) with
        | none => exact .inr (.inl ⟨entry, .badArgument, rfl, by simp only [hc, if_true]; rw [if_neg hi, hr]⟩)
        | some a => exact .inr (.inr ⟨entry, a, rfl, hi, hr, by simp only [hc, if_true]; rw [if_neg hi, hr]⟩)
    · exact .inl (by simp [hc])

/-- A READY part that executes an entry whose arguments pass the layout check runs the command's own rule (R165). -/
theorem State.execute_runs {α : Type} {s : State} {code : Byte} {entry : List Byte} {read : List Byte → Option α} {a : α}
    (run : State → α → State × Response) (hi : s.init = .ready) (hn : s.nextEntry = some entry)
    (hc : entryCode entry = code) (hr : read (entryArgs entry) = some a) :
    s.execute code read run = (run s a).1.finish code (run s a).2 := by
  unfold State.execute
  rw [hn]
  simp [hc, hi, hr]

/-- A case command on a named case runs its rule; on any other name it is refused NO_SUCH_CASE (R2). -/
theorem State.withCase_cases (s : State) (n : CaseName) (run : State → Nat → State × Response) :
    (s.named n.caseNo n.inst = true ∧ s.withCase n run = run s n.caseNo)
    ∨ (s.named n.caseNo n.inst = false ∧ s.withCase n run = (s, .reply .noSuchCase .none)) := by
  unfold State.withCase
  cases h : s.named n.caseNo n.inst
  · exact .inr ⟨rfl, by simp⟩
  · exact .inl ⟨rfl, by simp⟩

/-- A named case is one of the 2,048, is not FREE, and has the instance named (R2). -/
theorem State.named_iff (s : State) (c : Nat) (i : BitVec 8) :
    s.named c i = true ↔ c < 2048 ∧ (s.caseAt c).state ≠ .free ∧ (s.caseAt c).inst = i := by
  have h : (decide (c < Config.caseCount) = true) ↔ c < 2048 := decide_eq_true_iff
  simp only [State.named, Bool.and_eq_true, decide_eq_true_eq, h, and_assoc]

/-! ### The Case Table's free records -/

theorem lowestFreeFrom_spec (cases : List (Nat × CaseRecord)) :
    ∀ n c k, lowestFreeFrom cases n c = some k →
      c ≤ k ∧ k < c + n ∧ (tableGet CaseRecord.reset cases k).state = .free
        ∧ ∀ j, c ≤ j → j < k → (tableGet CaseRecord.reset cases j).state ≠ .free := by
  intro n
  induction n with
  | zero => intro c k h; simp [lowestFreeFrom] at h
  | succ n ih =>
    intro c k h
    simp only [lowestFreeFrom] at h
    split at h
    · next hf =>
      cases h
      exact ⟨Nat.le_refl _, by omega, hf, fun j h1 h2 => by omega⟩
    · next hf =>
      obtain ⟨h1, h2, h3, h4⟩ := ih (c + 1) k h
      refine ⟨by omega, by omega, h3, fun j hj hk => ?_⟩
      by_cases hjc : j = c
      · rw [hjc]; exact hf
      · exact h4 j (by omega) hk

/-- The record taken at open is FREE and no lower-numbered one is (R1). -/
theorem State.lowestFree_spec {s : State} {c : Nat} (h : s.lowestFree = some c) :
    c < 2048 ∧ (s.caseAt c).state = .free ∧ ∀ j, j < c → (s.caseAt j).state ≠ .free := by
  obtain ⟨_, h2, h3, h4⟩ := lowestFreeFrom_spec s.cases Config.caseCount 0 c h
  exact ⟨by simpa [Config.caseCount] using h2, h3, fun j hj => h4 j (Nat.zero_le _) hj⟩

end Sys2Proof.Machine
end

