-- ==== Sys2Proof/Laws/Frames.lean ====
section
/-! SUPPORT. Frames, said once per operation: what the events of a case leave unchanged in the part, and that the queues they
write to stay within their capacities. -/

namespace Sys2Proof.Machine

/-- `t` comes from `s` by events of cases: the Case Table, the untaken entries of the Action Queue, and the untaken events with
their counter may differ; nothing else does, and both queues keep their capacities. -/
structure CaseStep (s t : State) : Prop where
  frame : t = { s with cases := t.cases, actions := t.actions, notices := t.notices }
  taken : t.actions.taken = s.actions.taken
  seq : t.actions.seq = s.actions.seq
  depth : s.actions.depth ≤ 256 → t.actions.depth ≤ 256
  notices : t.notices = { s.notices with
    untaken := t.notices.untaken, casePending := t.notices.casePending, lost := t.notices.lost }
  events : s.notices.taken.length + s.notices.untaken.length ≤ 64 →
    t.notices.taken.length + t.notices.untaken.length ≤ 64
  lost : s.notices.lost ≤ 65535 → t.notices.lost ≤ 65535

theorem CaseStep.refl (s : State) : CaseStep s s := ⟨rfl, rfl, rfl, id, rfl, id, id⟩

theorem CaseStep.trans {s t u : State} (h : CaseStep s t) (k : CaseStep t u) : CaseStep s u where
  frame := by rw [k.frame, h.frame]
  taken := k.taken.trans h.taken
  seq := k.seq.trans h.seq
  depth := k.depth ∘ h.depth
  notices := by rw [k.notices, h.notices]
  events := k.events ∘ h.events
  lost := k.lost ∘ h.lost

/-! ### The updates -/

theorem CaseStep.setCase (s : State) (c : Nat) (r : CaseRecord) : CaseStep s (s.setCase c r) :=
  ⟨rfl, rfl, rfl, id, rfl, id, id⟩

theorem CaseStep.enqueue (s : State) (e : ActionEntry) (h : s.actions.depth < 256) : CaseStep s (s.enqueue e) :=
  ⟨rfl, rfl, rfl, fun _ => by rw [State.enqueue_depth]; omega, rfl, id, id⟩

theorem CaseStep.raiseEvent (s : State) (c : Nat) (d : EventDetail) : CaseStep s (s.raiseEvent c d) where
  frame := rfl
  taken := rfl
  seq := rfl
  depth := id
  notices := by
    show s.notices.raise _ = _
    rcases s.notices.raise_cases ⟨c, (s.caseAt c).inst, (s.caseAt c).hostTag, s.time.now, d⟩ with ⟨_, h⟩ | ⟨_, h⟩ <;>
      simp [State.raiseEvent, h]
  events := by
    intro hb
    show (s.notices.raise _).taken.length + (s.notices.raise _).untaken.length ≤ 64
    rcases s.notices.raise_cases ⟨c, (s.caseAt c).inst, (s.caseAt c).hostTag, s.time.now, d⟩ with ⟨_, h⟩ | ⟨_, h⟩ <;>
      simp [h] <;> omega
  lost := by
    intro hb
    show (s.notices.raise _).lost ≤ 65535
    rcases s.notices.raise_cases ⟨c, (s.caseAt c).inst, (s.caseAt c).hostTag, s.time.now, d⟩ with ⟨_, h⟩ | ⟨_, h⟩ <;>
      rw [h]
    · exact hb
    · exact bump_le _ hb

/-! ### Actions -/

theorem CaseStep.placeWithdraw (s : State) (c g : Nat) : CaseStep s (s.placeWithdraw c g) := by
  unfold State.placeWithdraw
  dsimp only
  split
  · next h => exact .enqueue _ _ (s.admitsOther_iff.mp h)
  · exact .setCase _ _ _

theorem CaseStep.placeUnblock (s : State) (c : Nat) : CaseStep s (s.placeUnblock c) := by
  unfold State.placeUnblock
  dsimp only
  split
  · next h => exact .enqueue _ _ (s.admitsOther_iff.mp h)
  · exact .setCase _ _ _

theorem CaseStep.queueRestore (s : State) (c : Nat) (o : Outstanding) (h : s.admitsRestore = true) :
    CaseStep s (s.queueRestore c o) :=
  (CaseStep.enqueue _ _ (by have := s.admitsRestore_iff.mp h; omega)).trans (.setCase _ _ _)

theorem CaseStep.placeRestore (s : State) (c : Nat) (o : Outstanding) : CaseStep s (s.placeRestore c o) := by
  unfold State.placeRestore
  split
  · next h => exact .queueRestore _ _ _ h
  · exact .setCase _ _ _

/-- Removing untaken entries leaves the taken ones and frees room. -/
theorem CaseStep.filterUntaken (s : State) (keep : ActionEntry → Bool) :
    CaseStep s { s with actions := { s.actions with untaken := s.actions.untaken.filter keep } } where
  frame := rfl
  taken := rfl
  seq := rfl
  depth := by
    intro h
    have := List.length_filter_le keep s.actions.untaken
    simp only [ActionUnit.depth] at *
    omega
  notices := rfl
  events := id
  lost := id

theorem CaseStep.withdraw (s : State) (c : Nat) : CaseStep s (s.withdraw c).1 := by
  unfold State.withdraw
  dsimp only
  split
  · exact .setCase _ _ _
  · split
    · exact .setCase _ _ _
    · split
      · exact (CaseStep.setCase s c _).trans (.filterUntaken (s.setCase c _) _)
      · exact (CaseStep.setCase s c _).trans (.placeWithdraw _ _ _)

theorem CaseStep.issue (s : State) (c : Nat) : CaseStep s (s.issue c) := by
  unfold State.issue
  dsimp only
  split
  · exact (CaseStep.setCase s c _).trans (.placeRestore _ _ _)
  · exact (CaseStep.setCase s c _).trans (.raiseEvent _ _ _)

theorem CaseStep.enterCollected (s : State) (c : Nat) : CaseStep s (s.enterCollected c) :=
  (CaseStep.setCase s c _).trans (.raiseEvent _ _ _)

theorem CaseStep.reconcile (s : State) (c : Nat) (b : Bool) : CaseStep s (s.reconcile c b).1 := by
  have h1 : CaseStep s (s.reconcileWithdraw c).1 := by
    unfold State.reconcileWithdraw
    split
    · exact .withdraw _ _
    · exact .refl _
  have h2 : ∀ (t : State) (a : Bool), CaseStep t (t.reconcileIssue c a) := by
    intro t a
    unfold State.reconcileIssue
    dsimp only
    split
    · exact .issue _ _
    · exact .refl _
  have h3 : ∀ (t : State) (a : Bool), CaseStep t (t.reconcileCollect c a) := by
    intro t a
    unfold State.reconcileCollect
    dsimp only
    split
    · exact .enterCollected _ _
    · exact .refl _
  exact ((h1.trans (h2 _ _)).trans (h3 _ _)).trans (.setCase _ _ _)

theorem CaseStep.serveWithdraws (c : Nat) : ∀ (gs : List Nat) (s : State), CaseStep s (s.serveWithdraws c gs) := by
  intro gs
  induction gs with
  | nil => exact fun s => .refl s
  | cons g gs ih =>
    intro s
    unfold State.serveWithdraws
    split
    · next h =>
      exact ((CaseStep.enqueue s _ (s.admitsOther_iff.mp h)).trans (.setCase _ _ _)).trans (ih _)
    · exact .refl s

theorem CaseStep.serveUnblock (s : State) (c : Nat) : CaseStep s (s.serveUnblock c) := by
  unfold State.serveUnblock
  dsimp only
  split
  · next h =>
    simp only [Bool.and_eq_true] at h
    exact (CaseStep.enqueue s _ (s.admitsOther_iff.mp h.2)).trans (.setCase _ _ _)
  · exact .refl s

theorem CaseStep.serveRestore (s : State) (c : Nat) : CaseStep s (s.serveRestore c) := by
  unfold State.serveRestore
  dsimp only
  split
  · split
    · next h =>
      simp only [Bool.and_eq_true] at h
      exact .queueRestore s c _ h.2
    · exact .refl s
  · exact .refl s

theorem CaseStep.serveCase (s : State) (c : Nat) : CaseStep s (s.serveCase c) :=
  (((CaseStep.serveWithdraws c _ s).trans (.serveUnblock _ c)).trans (.serveRestore _ c)).trans (.reconcile _ c false)

theorem CaseStep.serveCases : ∀ (cs : List Nat) (s : State), CaseStep s (s.serveCases cs) := by
  intro cs
  induction cs with
  | nil => exact fun s => .refl s
  | cons c cs ih =>
    intro s
    unfold State.serveCases
    split
    · exact (CaseStep.serveCase s c).trans (ih _)
    · exact ih s

theorem CaseStep.serveOwed (s : State) : CaseStep s s.serveOwed := .serveCases _ s

theorem CaseStep.endEvent {s : State} {o : State × Bool} (h : CaseStep s o.1) : CaseStep s (endEvent o) := by
  unfold Machine.endEvent
  split
  · exact h.trans (.serveOwed _)
  · exact h

/-! ### Settlement -/

theorem CaseStep.hold (s : State) (c : Nat) (r : CaseRecord) (h : HoldReasons) : CaseStep s (s.hold c r h) :=
  (CaseStep.setCase s c _).trans (.raiseEvent _ _ _)

theorem CaseStep.writeFirst (s : State) (op : Operation) : CaseStep s (s.writeFirst op).1 :=
  ((CaseStep.setCase s op.caseNo _).trans (.raiseEvent _ _ _)).trans (.reconcile _ _ _)

/-- A completion that takes effect is an event of its case, whatever its mode (R80). -/
theorem CaseStep.completeBy (s : State) (op : Operation) : CaseStep s (s.completeBy op).1 := by
  unfold State.completeBy
  split
  · unfold State.completeEarly
    dsimp only
    split
    · exact .writeFirst s op
    · exact .setCase _ _ _
  · unfold State.completeFinal
    dsimp only
    split
    · exact .hold _ _ _ _
    · exact .writeFirst s op
  · unfold State.completeForced
    split
    · exact .hold _ _ _ _
    · exact .writeFirst s op
  · unfold State.completeRecompute
    dsimp only
    split
    · exact ((CaseStep.setCase s op.caseNo _).trans (.raiseEvent _ _ _)).trans (.reconcile _ _ _)
    · exact .setCase _ _ _

/-! ### Records under disposition -/

/-- `t` comes from `s` by the disposition of a record: the Case Table, the pool, the settle request FIFO, the untaken entries of
the Action Queue, the Exception Log and the untaken events may differ (R41); nothing else does. -/
structure PartStep (s t : State) : Prop where
  frame : t = { s with
    cases := t.cases, poolFree := t.poolFree, settle := t.settle, actions := t.actions, log := t.log, notices := t.notices }
  inFlight : t.settle.inFlight = s.settle.inFlight
  fifo : (s.settle.fifo.map SettleRequest.caseNo).Nodup → (t.settle.fifo.map SettleRequest.caseNo).Nodup
  taken : t.actions.taken = s.actions.taken
  seq : t.actions.seq = s.actions.seq
  depth : s.actions.depth ≤ 256 → t.actions.depth ≤ 256
  notices : t.notices = { s.notices with
    untaken := t.notices.untaken, casePending := t.notices.casePending, lost := t.notices.lost
    logPending := t.notices.logPending }
  events : s.notices.taken.length + s.notices.untaken.length ≤ 64 →
    t.notices.taken.length + t.notices.untaken.length ≤ 64
  lost : s.notices.lost ≤ 65535 → t.notices.lost ≤ 65535
  lostRecords : s.log.lost ≤ 65535 → t.log.lost ≤ 65535

theorem PartStep.refl (s : State) : PartStep s s := ⟨rfl, rfl, id, rfl, rfl, id, rfl, id, id, id⟩

theorem PartStep.trans {s t u : State} (h : PartStep s t) (k : PartStep t u) : PartStep s u where
  frame := by rw [k.frame, h.frame]
  inFlight := k.inFlight.trans h.inFlight
  fifo := k.fifo ∘ h.fifo
  taken := k.taken.trans h.taken
  seq := k.seq.trans h.seq
  depth := k.depth ∘ h.depth
  notices := by rw [k.notices, h.notices]
  events := k.events ∘ h.events
  lost := k.lost ∘ h.lost
  lostRecords := k.lostRecords ∘ h.lostRecords

theorem CaseStep.part {s t : State} (h : CaseStep s t) : PartStep s t where
  frame := by rw [h.frame]
  inFlight := by rw [h.frame]
  fifo := by rw [h.frame]; exact id
  taken := h.taken
  seq := h.seq
  depth := h.depth
  notices := by rw [h.notices]
  events := h.events
  lost := h.lost
  lostRecords := by rw [h.frame]; exact id

theorem PartStep.logException (s : State) (c : Option Nat) (k : Option CardId) (d : Option DeviceId) (x : ExceptionDetail) :
    PartStep s (s.logException c k d x) :=
  ⟨rfl, rfl, id, rfl, rfl, id, rfl, id, id, ExceptionLog.write_lost_le _ _⟩

theorem PartStep.placeRequest (s : State) (q : SettleRequest) (b : Bool) : PartStep s (s.placeRequest q b) where
  frame := by unfold State.placeRequest; split; rfl; split <;> rfl
  inFlight := by simp
  fifo := s.placeRequest_nodup q b
  taken := by simp
  seq := by simp
  depth := by simp
  notices := by simp
  events := by simp
  lost := by simp
  lostRecords := by simp

theorem PartStep.placeEvidence (s : State) (c : Nat) : PartStep s (s.placeEvidence c) := by
  unfold State.placeEvidence
  split
  · exact .placeRequest _ _ _
  · exact .refl s

theorem PartStep.takeNew (s : State) (c : Nat) (a : Arrival) : PartStep s (s.takeNew c a).1 := by
  unfold State.takeNew
  dsimp only
  split
  · exact PartStep.trans (t := { s.setCase c _ with poolFree := s.poolFree - 1 })
      ⟨rfl, rfl, id, rfl, rfl, id, rfl, id, id, id⟩ (.placeEvidence _ _)
  · exact (CaseStep.setCase s c _).part.trans (.placeEvidence _ _)
  · exact (CaseStep.setCase s c _).part.trans (.placeEvidence _ _)
  · exact (CaseStep.setCase s c _).part.trans (.logException _ _ _ _ _)

theorem PartStep.attach (s : State) (c : Nat) (a : Arrival) : PartStep s (s.attach c a).1 := by
  have h1 : PartStep s (s.attachOutcome c a).1 := by
    unfold State.attachOutcome
    dsimp only
    split
    · exact .refl s
    · split
      · split
        · exact .refl s
        · exact (CaseStep.setCase s c _).part.trans (.logException _ _ _ _ _)
      · split
        · exact .refl s
        · exact .takeNew s c a
  have h2 : ∀ t : State, PartStep t (t.checkBreach c a.csn) := by
    intro t
    unfold State.checkBreach
    split
    · exact (CaseStep.setCase t c _).part
    · exact .refl t
  exact h1.trans (h2 _)

theorem PartStep.disposeOld (s : State) (c : Nat) (u : UsageRecord) (k : RecordKind) (stamp : Nat) :
    PartStep s (s.disposeOld c u k stamp).1 := by
  unfold State.disposeOld
  dsimp only
  split <;> first
    | exact .attach s c _
    | exact .refl s
    | (split
       · exact .logException _ _ _ _ _
       · exact .refl s)

theorem PartStep.takeCollection (s : State) (c : Nat) (card : CardId) (ref : Ref) (amount : Int) (mask : BitVec 4)
    (device : DeviceId) : PartStep s (s.takeCollection c card ref amount mask device).1.1 := by
  unfold State.takeCollection
  split
  · exact .logException _ _ _ _ _
  · unfold State.collection
    dsimp only
    split
    · exact ((CaseStep.setCase s c _).part.trans (.logException _ _ _ _ _)).trans (CaseStep.reconcile _ c false).part
    · split
      · exact ((CaseStep.setCase s c _).part.trans (.logException _ _ _ _ _)).trans (CaseStep.reconcile _ c false).part
      · exact (CaseStep.setCase s c _).part.trans (CaseStep.reconcile _ c false).part
  · exact ((CaseStep.setCase s c _).part.trans (.logException _ _ _ _ _)).trans (CaseStep.reconcile _ c false).part

/-- What the disposition of one record can touch (R41). -/
theorem PartStep.dispose (s : State) (raw : List Byte) (stamp : Nat) : PartStep s (s.dispose raw stamp).1.1 := by
  unfold State.dispose
  split
  · exact .refl s
  · dsimp only
    split
    · exact .disposeOld _ _ _ _ _
    · unfold State.disposeNew
      split
      · exact .takeCollection _ _ _ _ _ _ _
      · exact .refl s
    · unfold State.disposeOther
      split
      · exact .refl s
      · split
        · split
          · exact .refl s
          · exact .logException _ _ _ _ _
        · exact .refl s

theorem PartStep.endEvent {s : State} {o : State × Bool} (h : PartStep s o.1) : PartStep s (endEvent o) :=
  h.trans (CaseStep.endEvent (.refl _)).part

/-- A completion, discarded or not, is an event of its case (R79). -/
theorem PartStep.complete (s : State) (op : Operation) : PartStep s (s.complete op).1 := by
  unfold State.complete
  dsimp only
  split
  · exact .refl s
  · split
    · exact .refl s
    · split
      · exact .placeRequest _ _ _
      · exact (CaseStep.completeBy s op).part

end Sys2Proof.Machine
end

