-- ==== Sys2Proof/Laws/Records.lean ====
section
/-! SUPPORT. What the events of a case leave in the case records: whether a record is FREE, its cards, its arrivals and its baseline
CSN. Only opening, release and attachment change any of these (R6, R7, R57). -/

namespace Sys2Proof.Machine

/-- Two records agree in what only opening, release and attachment change. -/
structure SameCase (r r' : CaseRecord) : Prop where
  free : r'.state = .free ↔ r.state = .free
  oldCard : r'.oldCard = r.oldCard
  newCard : r'.newCard = r.newCard
  arrivals : r'.arrivals = r.arrivals
  baseline : r'.baselineCsn = r.baselineCsn

theorem SameCase.refl (r : CaseRecord) : SameCase r r := ⟨Iff.rfl, rfl, rfl, rfl, rfl⟩

theorem SameCase.trans {r r' r'' : CaseRecord} (h : SameCase r r') (k : SameCase r' r'') : SameCase r r'' :=
  ⟨k.free.trans h.free, k.oldCard.trans h.oldCard, k.newCard.trans h.newCard, k.arrivals.trans h.arrivals,
    k.baseline.trans h.baseline⟩

/-- A record that stays a live case with its cards, arrivals and baseline. -/
theorem SameCase.live {r r' : CaseRecord} (h : r.state ≠ .free) (h' : r'.state ≠ .free) (ho : r'.oldCard = r.oldCard)
    (hn : r'.newCard = r.newCard) (ha : r'.arrivals = r.arrivals) (hb : r'.baselineCsn = r.baselineCsn) : SameCase r r' :=
  ⟨⟨fun k => absurd k h', fun k => absurd k h⟩, ho, hn, ha, hb⟩

/-! ### Writing a record -/

/-- The Case Table after a record of one of the 2,048 numbers is written. -/
theorem State.setCase_tableOk {s : State} (hw : s.tableOk) {c : Nat} {r : CaseRecord} (hc : c < 2048)
    (hr : r.state = .free → r = CaseRecord.freeWith r.inst) : (s.setCase c r).tableOk := by
  refine ⟨tableSet_wf hw.1 c r, fun e he => ?_, fun e he => ?_⟩
  · rcases mem_tableSet he with rfl | h
    · exact hc
    · exact hw.2.1 e h
  · rcases mem_tableSet he with rfl | h
    · exact hr
    · exact hw.2.2 e h

/-- The slots in use after a record is written. -/
theorem State.setCase_slots {s : State} (hw : s.tableOk) (c : Nat) (r : CaseRecord) :
    (s.setCase c r).slotsInUse + (s.caseAt c).arrivals.length = s.slotsInUse + r.arrivals.length :=
  sum_tableSet (fun r : CaseRecord => r.arrivals.length) rfl hw.1.1 c r

/-- A live case is one of the 2,048. -/
theorem State.tableOk.live_lt {s : State} (hw : s.tableOk) {c : Nat} (hn : (s.caseAt c).state ≠ .free) : c < 2048 :=
  hw.2.1 _ (s.listed_of_ne_free c hn)

/-- A FREE record is the hard-reset record under its instance. -/
theorem State.tableOk.free_eq {s : State} (hw : s.tableOk) {c : Nat} (hf : (s.caseAt c).state = .free) :
    s.caseAt c = CaseRecord.freeWith (s.caseAt c).inst :=
  tableGet_all (p := fun r : CaseRecord => r.state = .free → r = CaseRecord.freeWith r.inst) (fun _ => rfl) hw.2.2 c hf

/-! ### Steps that keep the records -/

/-- `t` has the records of `s` in all that only opening, release and attachment change. -/
structure RecordStep (s t : State) : Prop where
  table : t.tableOk
  same : ∀ c, SameCase (s.caseAt c) (t.caseAt c)
  slots : t.slotsInUse = s.slotsInUse

theorem RecordStep.of_cases {s t : State} (hw : s.tableOk) (h : t.cases = s.cases) : RecordStep s t := by
  refine ⟨?_, fun c => ?_, ?_⟩
  · unfold State.tableOk; rw [h]; exact hw
  · rw [State.caseAt_congr h]; exact .refl _
  · unfold State.slotsInUse; rw [h]

theorem RecordStep.refl {s : State} (hw : s.tableOk) : RecordStep s s := .of_cases hw rfl

theorem RecordStep.trans {s t u : State} (h : RecordStep s t) (k : RecordStep t u) : RecordStep s u :=
  ⟨k.table, fun c => (h.same c).trans (k.same c), k.slots.trans h.slots⟩

/-- A live case is still live after the step. -/
theorem RecordStep.live {s t : State} (h : RecordStep s t) {c : Nat} (hn : (s.caseAt c).state ≠ .free) :
    (t.caseAt c).state ≠ .free := fun k => hn ((h.same c).free.mp k)

theorem RecordStep.setCase {s : State} (hw : s.tableOk) {c : Nat} (hn : (s.caseAt c).state ≠ .free) {r : CaseRecord}
    (h : SameCase (s.caseAt c) r) : RecordStep s (s.setCase c r) := by
  refine ⟨State.setCase_tableOk hw (hw.live_lt hn) (fun k => absurd (h.free.mp k) hn), fun j => ?_, ?_⟩
  · by_cases hj : j = c
    · subst hj; rw [State.caseAt_setCase_same _ hw.1]; exact h
    · rw [State.caseAt_setCase_other _ hj]; exact .refl _
  · have := State.setCase_slots hw c r
    rw [h.arrivals] at this
    omega

section

variable {s : State} (hw : s.tableOk) {c : Nat} (hn : (s.caseAt c).state ≠ .free)

include hw hn

theorem RecordStep.placeWithdraw (g : Nat) : RecordStep s (s.placeWithdraw c g) := by
  unfold State.placeWithdraw
  dsimp only
  split
  · exact .of_cases hw rfl
  · exact .setCase hw hn ⟨Iff.rfl, rfl, rfl, rfl, rfl⟩

theorem RecordStep.placeUnblock : RecordStep s (s.placeUnblock c) := by
  unfold State.placeUnblock
  dsimp only
  split
  · exact .of_cases hw rfl
  · exact .setCase hw hn ⟨Iff.rfl, rfl, rfl, rfl, rfl⟩

theorem RecordStep.queueRestore (o : Outstanding) : RecordStep s (s.queueRestore c o) := by
  have h : SameCase (s.caseAt c)
      ({ s.caseAt c with flags := { (s.caseAt c).flags with issueOwed := false } }.startCollection s.time.now) := by
    unfold CaseRecord.startCollection
    split <;> exact ⟨Iff.rfl, rfl, rfl, rfl, rfl⟩
  have h0 : RecordStep s (s.enqueue (.restore (s.refOfCase c o.generation) (s.caseAt c).newCard o.credit o.grants)) :=
    .of_cases hw rfl
  exact h0.trans (.setCase h0.table hn h)

theorem RecordStep.placeRestore (o : Outstanding) : RecordStep s (s.placeRestore c o) := by
  unfold State.placeRestore
  split
  · exact .queueRestore hw hn o
  · exact .setCase hw hn ⟨Iff.rfl, rfl, rfl, rfl, rfl⟩

theorem RecordStep.withdraw : RecordStep s (s.withdraw c).1 := by
  have h : RecordStep s (s.setCase c (s.caseAt c).clearOutstanding) := .setCase hw hn ⟨Iff.rfl, rfl, rfl, rfl, rfl⟩
  unfold State.withdraw
  dsimp only
  split
  · exact h
  · split
    · exact h
    · split
      · exact h.trans (.of_cases h.table rfl)
      · exact h.trans (.placeWithdraw h.table (h.live hn) _)

theorem RecordStep.issue : RecordStep s (s.issue c) := by
  unfold State.issue
  dsimp only
  split
  · have h := RecordStep.setCase hw hn (r := { s.caseAt c with
        generation := (s.caseAt c).generation + 1
        outstanding := some ⟨(s.caseAt c).generation + 1, (s.caseAt c).desiredCredit, (s.caseAt c).desiredGrants⟩
        state := .issued, deadline := (s.caseAt c).keepCollection }) (.live hn (by simp) rfl rfl rfl rfl)
    exact h.trans (.placeRestore h.table (h.live hn) _)
  · have h := RecordStep.setCase hw hn (r := { s.caseAt c with
        state := .held, deadline := none, holdReasons := HoldReasons.exhausted }) (.live hn (by simp) rfl rfl rfl rfl)
    exact h.trans (.of_cases h.table rfl)

theorem RecordStep.enterCollected : RecordStep s (s.enterCollected c) := by
  have h := RecordStep.setCase hw hn (r := { s.caseAt c with
      state := .collected
      deadline := some (deadlineAt .tailEnd
        (s.time.now + (((s.caseAt c).timing.map Timing.tailDays).getD 0) * Config.day)) })
    (.live hn (by simp) rfl rfl rfl rfl)
  exact h.trans (.of_cases h.table rfl)

theorem RecordStep.reconcile (b : Bool) : RecordStep s (s.reconcile c b).1 := by
  have h1 : RecordStep s (s.reconcileWithdraw c).1 := by
    unfold State.reconcileWithdraw
    split
    · exact .withdraw hw hn
    · exact .refl hw
  have h2 := fun (t : State) (a : Bool) (ht : t.tableOk) (hl : (t.caseAt c).state ≠ .free) => show
      RecordStep t (t.reconcileIssue c a) by
    unfold State.reconcileIssue
    dsimp only
    split
    · exact .issue ht hl
    · exact .refl ht
  have h3 := fun (t : State) (a : Bool) (ht : t.tableOk) (hl : (t.caseAt c).state ≠ .free) => show
      RecordStep t (t.reconcileCollect c a) by
    unfold State.reconcileCollect
    dsimp only
    split
    · exact .enterCollected ht hl
    · exact .refl ht
  have h12 := h1.trans (h2 _ (mayIssue (s.caseAt c).state b) h1.table (h1.live hn))
  have h123 := h12.trans (h3 _ (mayCollect (s.caseAt c).state b) h12.table (h12.live hn))
  exact h123.trans (.setCase h123.table (h123.live hn) ⟨Iff.rfl, rfl, rfl, rfl, rfl⟩)

theorem RecordStep.serveWithdraws (gs : List Nat) : RecordStep s (s.serveWithdraws c gs) := by
  induction gs generalizing s with
  | nil => exact .refl hw
  | cons g gs ih =>
    unfold State.serveWithdraws
    split
    · have h0 : RecordStep s (s.enqueue (.withdraw (s.refOfCase c g) (s.caseAt c).newCard)) := .of_cases hw rfl
      have h := h0.trans (.setCase (r := { s.caseAt c with owed := { (s.caseAt c).owed with withdraws := gs } })
        h0.table hn ⟨Iff.rfl, rfl, rfl, rfl, rfl⟩)
      exact h.trans (ih h.table (h.live hn))
    · exact .refl hw

theorem RecordStep.serveUnblock : RecordStep s (s.serveUnblock c) := by
  unfold State.serveUnblock
  dsimp only
  split
  · have h0 : RecordStep s (s.enqueue (.unblock (s.refOfCase c 0) (s.caseAt c).oldCard)) := .of_cases hw rfl
    exact h0.trans (.setCase h0.table hn ⟨Iff.rfl, rfl, rfl, rfl, rfl⟩)
  · exact .refl hw

theorem RecordStep.serveRestore : RecordStep s (s.serveRestore c) := by
  unfold State.serveRestore
  dsimp only
  split
  · split
    · exact .queueRestore hw hn _
    · exact .refl hw
  · exact .refl hw

theorem RecordStep.serveCase : RecordStep s (s.serveCase c) := by
  have h1 := RecordStep.serveWithdraws hw hn (s.caseAt c).owed.withdraws
  have h2 := h1.trans (.serveUnblock h1.table (h1.live hn))
  have h3 := h2.trans (.serveRestore h2.table (h2.live hn))
  exact h3.trans (.reconcile h3.table (h3.live hn) false)

end

/-- A case that is served owes an entry, and so is live (R122 step 1). -/
theorem State.servable_live {s : State} (hw : s.tableOk) {c : Nat} (h : s.servable c = true) :
    (s.caseAt c).state ≠ .free := by
  intro hf
  rw [State.servable, hw.free_eq hf] at h
  simp [CaseRecord.freeWith, CaseFlags.none] at h

theorem RecordStep.serveCases : ∀ (cs : List Nat) {s : State}, s.tableOk → RecordStep s (s.serveCases cs) := by
  intro cs
  induction cs with
  | nil => exact fun hw => .refl hw
  | cons c cs ih =>
    intro s hw
    unfold State.serveCases
    split
    · next h =>
      have h1 := RecordStep.serveCase hw (State.servable_live hw h)
      exact h1.trans (ih h1.table)
    · exact ih hw

theorem RecordStep.endEvent {s : State} {o : State × Bool} (h : RecordStep s o.1) : RecordStep s (endEvent o) := by
  unfold Machine.endEvent
  split
  · exact h.trans (.serveCases _ h.table)
  · exact h

/-! ### Settlement and collections -/

section

variable {s : State} (hw : s.tableOk)

include hw

theorem RecordStep.completeBy (op : Operation) (hn : (s.caseAt op.caseNo).state ≠ .free) :
    RecordStep s (s.completeBy op).1 := by
  have first : RecordStep s (s.writeFirst op).1 := by
    have h := RecordStep.setCase hw hn (r := (s.caseAt op.caseNo).settledBy op) ⟨Iff.rfl, rfl, rfl, rfl, rfl⟩
    have h2 := h.trans (.of_cases (t := (s.setCase op.caseNo ((s.caseAt op.caseNo).settledBy op)).raiseEvent op.caseNo
      (.settled op.result.status op.result.target)) h.table rfl)
    exact h2.trans (.reconcile h2.table (h2.live hn) true)
  have held : ∀ (r : CaseRecord) (why : HoldReasons), r.oldCard = (s.caseAt op.caseNo).oldCard →
      r.newCard = (s.caseAt op.caseNo).newCard → r.arrivals = (s.caseAt op.caseNo).arrivals →
      r.baselineCsn = (s.caseAt op.caseNo).baselineCsn → RecordStep s (s.hold op.caseNo r why) := by
    intro r why h1 h2 h3 h4
    have h := RecordStep.setCase hw hn (r := { r with state := .held, deadline := none, holdReasons := why })
      (.live hn (by simp) h1 h2 h3 h4)
    exact h.trans (.of_cases h.table rfl)
  unfold State.completeBy
  split
  · unfold State.completeEarly
    dsimp only
    split
    · exact first
    · exact .setCase hw hn ⟨Iff.rfl, rfl, rfl, rfl, rfl⟩
  · unfold State.completeFinal
    dsimp only
    split
    · exact held _ _ rfl rfl rfl rfl
    · exact first
  · unfold State.completeForced
    split
    · exact held _ _ rfl rfl rfl rfl
    · exact first
  · unfold State.completeRecompute
    dsimp only
    split
    · have h := RecordStep.setCase hw hn (r := (s.caseAt op.caseNo).settledBy op) ⟨Iff.rfl, rfl, rfl, rfl, rfl⟩
      have h2 := h.trans (.of_cases (t := (s.setCase op.caseNo ((s.caseAt op.caseNo).settledBy op)).raiseEvent op.caseNo
        (.adjusted (op.result.target - (s.caseAt op.caseNo).target))) h.table rfl)
      exact h2.trans (.reconcile h2.table (h2.live hn) true)
    · exact .setCase hw hn ⟨Iff.rfl, rfl, rfl, rfl, rfl⟩

theorem RecordStep.complete (op : Operation) : RecordStep s (s.complete op).1 := by
  unfold State.complete
  dsimp only
  split
  · exact .refl hw
  · next h =>
    split
    · exact .refl hw
    · split
      · exact .of_cases hw (by simp)
      · exact .completeBy hw op fun k => h (.inl k)

/-- A collection keeps its case live, and its cards, arrivals and baseline (R131, R133). -/
theorem RecordStep.takeCollection (c : Nat) (hn : (s.caseAt c).state ≠ .free) (card : CardId) (ref : Ref) (amount : Int)
    (mask : BitVec 4) (device : DeviceId) : RecordStep s (s.takeCollection c card ref amount mask device).1.1 := by
  have log : ∀ (t : State) (k : Option CardId) (x : ExceptionDetail), RecordStep s t →
      RecordStep s (t.logException (some c) k (some device) x) := fun t k x h => h.trans (.of_cases h.table rfl)
  have fin : ∀ t : State, RecordStep s t → RecordStep s (t.reconcile c false).1 :=
    fun t h => h.trans (.reconcile h.table (h.live hn) false)
  unfold State.takeCollection
  split
  · exact log s _ _ (.refl hw)
  · next o _ =>
    have h : RecordStep s (s.setCase c ((s.caseAt c).collect o (countedAmount amount) mask)) :=
      .setCase hw hn ⟨Iff.rfl, rfl, rfl, rfl, rfl⟩
    unfold State.collection
    dsimp only
    split
    · exact fin _ (log _ _ _ h)
    · split
      · exact fin _ (log _ _ _ h)
      · exact fin _ h
  · exact fin _ (log _ _ _ (.setCase hw hn ⟨Iff.rfl, rfl, rfl, rfl, rfl⟩))

end

end Sys2Proof.Machine
end

