-- ==== Sys2Proof/Laws/Life.lean ====
section
/-! SUPPORT. The soundness of case records (CaseRecord.lifeOk) under each shared operation on a case. -/

namespace Sys2Proof.Machine

/-! ### Records -/

theorem CaseRecord.freeWith_lifeOk (i : BitVec 8) : (CaseRecord.freeWith i).lifeOk where
  free := fun _ => rfl
  deadline := fun d h => by simp [CaseRecord.freeWith] at h
  outstanding := fun o h => by simp [CaseRecord.freeWith] at h
  owed := fun h => by simp [CaseRecord.freeWith, CaseFlags.none] at h
  generation := by simp [CaseRecord.freeWith]
  collecting := fun _ => rfl
  lock := rfl
  applied := by simp [CaseRecord.freeWith]
  unpaid := by simp [CaseRecord.freeWith]
  overpaid := by simp [CaseRecord.freeWith]
  pruned := by simp [CaseRecord.freeWith]
  target := fun r h => by simp [CaseRecord.freeWith] at h

/-- Outside ISSUED nothing is outstanding, and nothing is owed to be issued. -/
theorem CaseRecord.lifeOk.none_outstanding {r : CaseRecord} (h : r.lifeOk) (hs : r.state ≠ .issued) :
    r.outstanding = none ∧ r.flags.issueOwed = false := by
  have ho : r.outstanding = none := by
    cases hx : r.outstanding with
    | none => rfl
    | some o => exact absurd (h.outstanding o hx).1 hs
  refine ⟨ho, ?_⟩
  cases hx : r.flags.issueOwed with
  | false => rfl
  | true => have := h.owed hx; rw [ho] at this; cases this

/-- The target is never below 0 (R89). -/
theorem CaseRecord.lifeOk.target_nonneg {r : CaseRecord} (h : r.lifeOk) : 0 ≤ r.target := by
  unfold CaseRecord.target
  cases hx : r.result with
  | none => simp
  | some res => simpa [hx] using h.target res hx

theorem deadlineAt_due (k : DeadlineKind) (v : Nat) : (deadlineAt k v).due ≤ 4294967295 := Nat.min_le_right _ _

/-! ### The Case Table -/

theorem State.casesOk.at {s : State} (h : s.casesOk) (c : Nat) : (s.caseAt c).lifeOk :=
  tableGet_all (p := CaseRecord.lifeOk) (CaseRecord.freeWith_lifeOk 0) h c

theorem State.casesOk.setCase {s : State} (h : s.casesOk) (c : Nat) {r : CaseRecord} (hr : r.lifeOk) :
    (s.setCase c r).casesOk := fun e he => by
  rcases mem_tableSet he with rfl | h'
  · exact hr
  · exact h e h'

theorem State.casesOk.congr {s t : State} (h : s.casesOk) (e : t.cases = s.cases) : t.casesOk := by
  unfold State.casesOk; rw [e]; exact h

theorem State.casesOk.raiseEvent {s : State} (h : s.casesOk) (c : Nat) (d : EventDetail) : (s.raiseEvent c d).casesOk :=
  h

theorem State.casesOk.logException {s : State} (h : s.casesOk) (c : Option Nat) (k : Option CardId) (d : Option DeviceId)
    (x : ExceptionDetail) : (s.logException c k d x).casesOk := h

theorem State.tableOk.raiseEvent {s : State} (h : s.tableOk) (c : Nat) (d : EventDetail) : (s.raiseEvent c d).tableOk := h

theorem State.tableOk.logException {s : State} (h : s.tableOk) (c : Option Nat) (k : Option CardId) (d : Option DeviceId)
    (x : ExceptionDetail) : (s.logException c k d x).tableOk := h

/-! ### Actions -/

section

variable {s : State} (hw : s.tableOk) (h : s.casesOk) {c : Nat} (hn : (s.caseAt c).state ≠ .free)

include h hn

theorem State.casesOk.placeWithdraw (g : Nat) : (s.placeWithdraw c g).casesOk := by
  unfold State.placeWithdraw
  dsimp only
  split
  · exact h.congr rfl
  · exact h.setCase c { h.at c with free := fun k => absurd k hn }

theorem State.casesOk.placeUnblock : (s.placeUnblock c).casesOk := by
  unfold State.placeUnblock
  dsimp only
  split
  · exact h.congr rfl
  · exact h.setCase c { h.at c with free := fun k => absurd k hn }

omit hn in
theorem State.casesOk.queueRestore (o : Outstanding) (hi : (s.caseAt c).state = .issued) :
    (s.queueRestore c o).casesOk := by
  have hn : (s.caseAt c).state ≠ .free := by rw [hi]; decide
  refine (State.casesOk.congr (t := s.enqueue _) h rfl).setCase c ?_
  have base : ({ s.caseAt c with flags := { (s.caseAt c).flags with issueOwed := false } } : CaseRecord).lifeOk :=
    { h.at c with free := fun k => absurd k hn, owed := fun k => by simp at k }
  unfold CaseRecord.startCollection
  split
  · exact base
  · exact { base with
      free := fun k => absurd k hn
      deadline := fun d k => by simp at k; subst k; exact ⟨hi, deadlineAt_due _ _⟩ }

omit hn in
theorem State.casesOk.placeRestore (o : Outstanding) (hi : (s.caseAt c).state = .issued)
    (ho : (s.caseAt c).outstanding.isSome = true) : (s.placeRestore c o).casesOk := by
  unfold State.placeRestore
  split
  · exact h.queueRestore o hi
  · exact h.setCase c { h.at c with free := fun k => by simp [hi] at k, owed := fun _ => ho }

theorem State.casesOk.clear : (s.caseAt c).clearOutstanding.lifeOk :=
  { h.at c with
    free := fun k => absurd k hn
    outstanding := fun o k => by simp [CaseRecord.clearOutstanding] at k
    owed := fun k => by simp [CaseRecord.clearOutstanding] at k }

include hw

theorem State.casesOk.withdraw : (s.withdraw c).1.casesOk := by
  have h1 : (s.setCase c (s.caseAt c).clearOutstanding).casesOk := h.setCase c (h.clear hn)
  have hl : ((s.setCase c (s.caseAt c).clearOutstanding).caseAt c).state ≠ .free := by
    rw [State.caseAt_setCase_same _ hw.1]; exact hn
  unfold State.withdraw
  dsimp only
  split
  · exact h1
  · split
    · exact h1
    · split
      · exact h1.congr rfl
      · exact h1.placeWithdraw hl _

omit h hn in
/-- A withdrawal leaves nothing outstanding and nothing owed to be issued, and no other of these fields changes (R123). -/
theorem State.withdraw_caseAt :
    ((s.withdraw c).1.caseAt c).outstanding = none ∧ ((s.withdraw c).1.caseAt c).flags.issueOwed = false
      ∧ ((s.withdraw c).1.caseAt c).state = (s.caseAt c).state
      ∧ ((s.withdraw c).1.caseAt c).deadline = (s.caseAt c).deadline := by
  have hs := State.caseAt_setCase_same s hw.1 c (s.caseAt c).clearOutstanding
  have any : ∀ t : State, t.cases = (s.setCase c (s.caseAt c).clearOutstanding).cases →
      (t.caseAt c).outstanding = none ∧ (t.caseAt c).flags.issueOwed = false
        ∧ (t.caseAt c).state = (s.caseAt c).state ∧ (t.caseAt c).deadline = (s.caseAt c).deadline := by
    intro t ht
    rw [State.caseAt_congr ht, hs]
    exact ⟨rfl, rfl, rfl, rfl⟩
  unfold State.withdraw
  dsimp only
  split
  · exact any _ rfl
  · split
    · exact any _ rfl
    · split
      · exact any _ rfl
      · unfold State.placeWithdraw
        dsimp only
        split
        · exact any _ rfl
        · rw [State.caseAt_setCase_same _ (State.setCase_wf _ hw.1 _ _), hs]
          exact ⟨rfl, rfl, rfl, rfl⟩

omit hn in
theorem State.casesOk.issue (ho : (s.caseAt c).outstanding.isNone = true) : (s.issue c).casesOk := by
  have hr := h.at c
  have ho' : (s.caseAt c).outstanding = none := by simpa using ho
  have how : (s.caseAt c).flags.issueOwed = false := by
    cases hx : (s.caseAt c).flags.issueOwed with
    | false => rfl
    | true => have := hr.owed hx; rw [ho'] at this; cases this
  unfold State.issue
  dsimp only
  split
  · next hg =>
    have hg : (s.caseAt c).generation < 8191 := hg
    have base : ({ s.caseAt c with
        generation := (s.caseAt c).generation + 1
        outstanding := some ⟨(s.caseAt c).generation + 1, (s.caseAt c).desiredCredit, (s.caseAt c).desiredGrants⟩
        state := .issued, deadline := (s.caseAt c).keepCollection } : CaseRecord).lifeOk :=
      { hr with
        free := fun k => by simp at k
        deadline := fun d k => by
          simp only [CaseRecord.keepCollection] at k
          split at k
          · next v hd => cases k; exact ⟨rfl, (hr.deadline _ hd).2⟩
          · cases k
        outstanding := fun o k => by simp at k; subst k; exact ⟨rfl, rfl, by simp⟩
        owed := fun k => by rfl
        generation := by show _ + 1 ≤ 8191; omega
        collecting := fun k => by simp at k }
    have hs := State.caseAt_setCase_same s hw.1 c { s.caseAt c with
        generation := (s.caseAt c).generation + 1
        outstanding := some ⟨(s.caseAt c).generation + 1, (s.caseAt c).desiredCredit, (s.caseAt c).desiredGrants⟩
        state := .issued, deadline := (s.caseAt c).keepCollection }
    exact (h.setCase c base).placeRestore _ (by rw [hs]) (by rw [hs]; rfl)
  · refine (h.setCase c ?_).raiseEvent c _
    exact
      { hr with
        free := fun k => by simp at k
        deadline := fun d k => by simp at k
        outstanding := fun o k => by simp [ho'] at k
        owed := fun k => by simp [how] at k
        collecting := fun k => by simp at k }

omit hw hn in
theorem State.casesOk.enterCollected (ho : (s.caseAt c).outstanding.isNone = true) : (s.enterCollected c).casesOk := by
  have hr := h.at c
  have ho' : (s.caseAt c).outstanding = none := by simpa using ho
  refine (h.setCase c ?_).raiseEvent c _
  exact
    { hr with
      free := fun k => by simp at k
      deadline := fun d k => by simp at k; subst k; exact ⟨rfl, deadlineAt_due _ _⟩
      outstanding := fun o k => by simp [ho'] at k
      owed := fun k => hr.owed k
      collecting := fun k => by simp at k }

omit hw in
theorem State.casesOk.setOverpaid : (s.setOverpaid c).casesOk := by
  have hr := h.at c
  refine h.setCase c { hr with free := fun k => absurd k hn, overpaid := ?_ }
  have h1 := hr.target_nonneg
  have h2 := hr.applied
  have h3 := hr.unpaid
  constructor
  · exact le_max_right _ _
  · exact max_le (by omega) (by omega)

theorem State.casesOk.reconcile (b : Bool) : (s.reconcile c b).1.casesOk := by
  have r1 : RecordStep s (s.reconcileWithdraw c).1 := by
    unfold State.reconcileWithdraw
    split
    · exact .withdraw hw hn
    · exact .refl hw
  have c1 : (s.reconcileWithdraw c).1.casesOk := by
    unfold State.reconcileWithdraw
    split
    · exact h.withdraw hw hn
    · exact h
  have r2 : ∀ a, RecordStep (s.reconcileWithdraw c).1 ((s.reconcileWithdraw c).1.reconcileIssue c a) := by
    intro a
    unfold State.reconcileIssue
    dsimp only
    split
    · exact .issue r1.table (r1.live hn)
    · exact .refl r1.table
  have c2 : ∀ a, ((s.reconcileWithdraw c).1.reconcileIssue c a).casesOk := by
    intro a
    unfold State.reconcileIssue
    dsimp only
    split
    · next hx =>
      simp only [Bool.and_eq_true] at hx
      exact c1.issue r1.table hx.1.1
    · exact c1
  have c3 : ∀ (t : State) (a : Bool), t.casesOk → (t.reconcileCollect c a).casesOk := by
    intro t a ht
    unfold State.reconcileCollect
    dsimp only
    split
    · next hx =>
      simp only [Bool.and_eq_true] at hx
      exact ht.enterCollected hx.1.1
    · exact ht
  have r3 : ∀ (t : State) (a : Bool), t.tableOk → (t.caseAt c).state ≠ .free → RecordStep t (t.reconcileCollect c a) := by
    intro t a ht hl
    unfold State.reconcileCollect
    dsimp only
    split
    · exact .enterCollected ht hl
    · exact .refl ht
  have r12 := r1.trans (r2 (mayIssue (s.caseAt c).state b))
  have r123 := r12.trans (r3 _ (mayCollect (s.caseAt c).state b) r12.table (r12.live hn))
  exact (c3 _ (mayCollect (s.caseAt c).state b) (c2 _)).setOverpaid (r123.live hn)

theorem State.casesOk.serveCase : (s.serveCase c).casesOk := by
  have w : ∀ (gs : List Nat) (t : State), t.casesOk → t.tableOk → (t.caseAt c).state ≠ .free →
      (t.serveWithdraws c gs).casesOk := by
    intro gs
    induction gs with
    | nil => exact fun t k _ _ => k
    | cons g gs ih =>
      intro t k kw kn
      unfold State.serveWithdraws
      split
      · have h0 : RecordStep t (t.enqueue (.withdraw (t.refOfCase c g) (t.caseAt c).newCard)) := .of_cases kw rfl
        have h1 := h0.trans (.setCase (r := { t.caseAt c with owed := { (t.caseAt c).owed with withdraws := gs } })
          h0.table kn ⟨Iff.rfl, rfl, rfl, rfl, rfl⟩)
        exact ih _ ((State.casesOk.congr (t := t.enqueue _) k rfl).setCase c
          { k.at c with free := fun x => absurd x kn }) h1.table (h1.live kn)
      · exact k
  have u : ∀ t : State, t.casesOk → (t.caseAt c).state ≠ .free → (t.serveUnblock c).casesOk := by
    intro t k kn
    unfold State.serveUnblock
    dsimp only
    split
    · exact (State.casesOk.congr (t := t.enqueue _) k rfl).setCase c { k.at c with free := fun x => absurd x kn }
    · exact k
  have q : ∀ t : State, t.casesOk → (t.serveRestore c).casesOk := by
    intro t k
    unfold State.serveRestore
    dsimp only
    split
    · next o ho =>
      split
      · exact k.queueRestore o ((k.at c).outstanding o ho).1
      · exact k
    · exact k
  have r1 := RecordStep.serveWithdraws hw hn (s.caseAt c).owed.withdraws
  have r2 := r1.trans (.serveUnblock r1.table (r1.live hn))
  have r3 := r2.trans (.serveRestore r2.table (r2.live hn))
  exact (q _ (u _ (w _ s h hw hn) (r1.live hn))).reconcile r3.table (r3.live hn) false

end

theorem State.casesOk.serveCases : ∀ (cs : List Nat) {s : State}, s.tableOk → s.casesOk → (s.serveCases cs).casesOk := by
  intro cs
  induction cs with
  | nil => exact fun _ h => h
  | cons c cs ih =>
    intro s hw h
    unfold State.serveCases
    split
    · next hs =>
      have hn := State.servable_live hw hs
      exact ih (RecordStep.serveCase hw hn).table (h.serveCase hw hn)
    · exact ih hw h

theorem State.casesOk.endEvent {o : State × Bool} (hw : o.1.tableOk) (h : o.1.casesOk) : (endEvent o).casesOk := by
  unfold Machine.endEvent
  split
  · exact State.casesOk.serveCases _ hw h
  · exact h

/-! ### Settlement -/

/-- Stages 2 to 4 leave a target of at least 0 (R89, R90). -/
theorem purseResult_target_nonneg (st : ResultStatus) (b : Int) (m : MoneyTerms) (w : Bool) :
    0 ≤ (purseResult st b m w).target :=
  le_min (le_max_right _ _) (Int.natCast_nonneg _)

theorem Operation.result_target_nonneg (op : Operation) : 0 ≤ op.result.target := by
  unfold Operation.result
  split <;> exact purseResult_target_nonneg _ _ _ _

section

variable {s : State} (hw : s.tableOk) (h : s.casesOk)

include hw h

theorem State.casesOk.completeBy (op : Operation) (ha : op.mode.applies (s.caseAt op.caseNo) = true)
    (hn : (s.caseAt op.caseNo).state ≠ .free) : (s.completeBy op).1.casesOk := by
  have hr := h.at op.caseNo
  have settled : ((s.caseAt op.caseNo).settledBy op).lifeOk :=
    { hr with
      free := fun k => absurd k hn
      target := fun res k => by
        simp [CaseRecord.settledBy] at k; subst k; exact op.result_target_nonneg }
  have checked : ((s.caseAt op.caseNo).checked op).lifeOk := { hr with free := fun k => absurd k hn }
  have rset : RecordStep s (s.setCase op.caseNo ((s.caseAt op.caseNo).settledBy op)) :=
    .setCase hw hn ⟨Iff.rfl, rfl, rfl, rfl, rfl⟩
  have first : (s.writeFirst op).1.casesOk := by
    have h1 := (h.setCase op.caseNo settled).raiseEvent op.caseNo (.settled op.result.status op.result.target)
    exact h1.reconcile (rset.table.raiseEvent _ _) (rset.live hn) true
  have held : ∀ (r : CaseRecord) (why : HoldReasons), r.lifeOk → r.state ≠ .issued →
      (s.hold op.caseNo r why).casesOk := by
    intro r why k ki
    refine (h.setCase op.caseNo ?_).raiseEvent op.caseNo _
    exact
      { k with
        free := fun x => by simp at x
        deadline := fun d x => by simp at x
        outstanding := fun o x => by simp [(k.none_outstanding ki).1] at x
        owed := fun x => by simp [(k.none_outstanding ki).2] at x
        collecting := fun x => by simp at x }
  unfold State.completeBy
  unfold SettleMode.applies at ha
  split
  · unfold State.completeEarly
    dsimp only
    split
    · exact first
    · exact h.setCase op.caseNo checked
  · next hm =>
    rw [hm] at ha
    simp at ha
    unfold State.completeFinal
    dsimp only
    split
    · exact held _ _ checked (by simp [CaseRecord.checked, ha])
    · exact first
  · next hm =>
    rw [hm] at ha
    simp at ha
    unfold State.completeForced
    split
    · exact held _ _ hr (by rcases ha with k | k <;> simp [k])
    · exact first
  · unfold State.completeRecompute
    dsimp only
    split
    · have h1 := (h.setCase op.caseNo settled).raiseEvent op.caseNo
        (.adjusted (op.result.target - (s.caseAt op.caseNo).target))
      exact h1.reconcile (rset.table.raiseEvent _ _) (rset.live hn) true
    · exact h.setCase op.caseNo settled

theorem State.casesOk.complete (op : Operation) : (s.complete op).1.casesOk := by
  unfold State.complete
  dsimp only
  split
  · exact h
  · next hx =>
    split
    · exact h
    · next ha =>
      split
      · exact h.congr (by simp)
      · exact h.completeBy hw op (by simpa using ha) fun k => hx (.inl k)

/-! ### Collections and attachment -/

omit hw h in
theorem addTotal_bounds (t m : Int) (ht : 0 ≤ t) (hm : 0 ≤ m) : 0 ≤ addTotal t m ∧ addTotal t m ≤ 2000000 :=
  ⟨le_min (by omega) (by decide), min_le_right _ _⟩

theorem State.casesOk.takeCollection (c : Nat) (hn : (s.caseAt c).state ≠ .free) (card : CardId) (ref : Ref) (amount : Int)
    (mask : BitVec 4) (device : DeviceId) : (s.takeCollection c card ref amount mask device).1.1.casesOk := by
  have hr := h.at c
  have hc : 0 ≤ countedAmount amount := le_max_right _ _
  have fin : ∀ (t : State), t.tableOk → (t.caseAt c).state ≠ .free → t.casesOk → (t.reconcile c false).1.casesOk :=
    fun t k1 k2 k3 => k3.reconcile k1 k2 false
  unfold State.takeCollection
  split
  · exact h.logException _ _ _ _
  · next o _ =>
    have k : ((s.caseAt c).collect o (countedAmount amount) mask).lifeOk :=
      { hr with
        free := fun x => absurd x hn
        outstanding := fun o x => by simp [CaseRecord.collect, CaseRecord.clearOutstanding] at x
        owed := fun x => by simp [CaseRecord.collect, CaseRecord.clearOutstanding] at x
        applied := addTotal_bounds _ _ hr.applied.1 hc
        unpaid := by
          simp only [CaseRecord.collect]
          split
          · next hs =>
            simp only [decide_eq_true_eq] at hs
            exact addTotal_bounds _ _ hr.unpaid.1 (by omega)
          · exact hr.unpaid }
    have r : RecordStep s (s.setCase c ((s.caseAt c).collect o (countedAmount amount) mask)) :=
      .setCase hw hn ⟨Iff.rfl, rfl, rfl, rfl, rfl⟩
    unfold State.collection
    dsimp only
    split
    · exact fin _ (r.table.logException _ _ _ _) (r.live hn) ((h.setCase c k).logException _ _ _ _)
    · split
      · exact fin _ (r.table.logException _ _ _ _) (r.live hn) ((h.setCase c k).logException _ _ _ _)
      · exact fin _ r.table (r.live hn) (h.setCase c k)
  · have k : ({ s.caseAt c with
        applied := addTotal (s.caseAt c).applied (countedAmount amount)
        grantStatus := (s.caseAt c).grantStatus.afterStale mask } : CaseRecord).lifeOk :=
      { hr with free := fun x => absurd x hn, applied := addTotal_bounds _ _ hr.applied.1 hc }
    have r : RecordStep s (s.setCase c { s.caseAt c with
        applied := addTotal (s.caseAt c).applied (countedAmount amount)
        grantStatus := (s.caseAt c).grantStatus.afterStale mask }) :=
      .setCase hw hn ⟨Iff.rfl, rfl, rfl, rfl, rfl⟩
    exact fin _ (r.table.logException _ _ _ _) (r.live hn) ((h.setCase c k).logException _ _ _ _)

end

section

variable {s : State} (h : s.casesOk)

include h

theorem State.casesOk.takeNew (c : Nat) (a : Arrival) (hn : (s.caseAt c).state ≠ .free) : (s.takeNew c a).1.casesOk := by
  have hr := h.at c
  have pr : ∀ n, n ≤ 255 → bumpPruned n ≤ 255 := by
    intro n k; unfold bumpPruned Config.prunedMax; split <;> omega
  have lk : ((s.caseAt c).lockOn c a).lifeOk := by
    unfold CaseRecord.lockOn
    split
    · exact { hr with free := fun x => absurd x hn, lock := rfl }
    · exact hr
  have ls : ((s.caseAt c).lockOn c a).state ≠ .free := by
    unfold CaseRecord.lockOn; split <;> exact hn
  have pe : ∀ t : State, t.casesOk → (t.placeEvidence c).casesOk := fun t k => k.congr (by simp)
  unfold State.takeNew
  dsimp only
  split
  · next arrivals _ =>
    have k := h.setCase c (r := { ((s.caseAt c).lockOn c a).taken a with arrivals := arrivals })
      { lk with free := fun x => absurd x ls }
    exact pe { s.setCase c _ with poolFree := s.poolFree - 1 } k
  · exact pe _ (h.setCase c { lk with free := fun x => absurd x ls, pruned := pr _ lk.pruned })
  · exact pe _ (h.setCase c { lk with free := fun x => absurd x ls, pruned := pr _ lk.pruned })
  · refine (h.setCase c ?_).logException _ _ _ _
    exact { lk with free := fun x => absurd x ls }

theorem State.casesOk.attachOutcome (c : Nat) (a : Arrival) (hn : (s.caseAt c).state ≠ .free) :
    (s.attachOutcome c a).1.casesOk := by
  have hr := h.at c
  unfold State.attachOutcome
  dsimp only
  split
  · exact h
  · split
    · split
      · exact h
      · refine (h.setCase c ?_).logException _ _ _ _
        exact { hr with free := fun x => absurd x hn }
    · split
      · exact h
      · exact h.takeNew c a hn

theorem State.casesOk.checkBreach (c csn : Nat) (hn : (s.caseAt c).state ≠ .free) : (s.checkBreach c csn).casesOk := by
  unfold State.checkBreach
  split
  · exact h.setCase c { h.at c with free := fun x => absurd x hn }
  · exact h

end

end Sys2Proof.Machine
end

