-- ==== Sys2Proof/Laws/Attachment.lean ====
section
/-! SUPPORT. Arrival lists and the pool under attachment (R57, R59, R68 to R71): placing and removing arrivals, finding room, and what
attachment leaves in the Case Table. -/

namespace Sys2Proof.Machine

/-- A list in strictly ascending CSN order (R59). -/
abbrev ascending (l : List Arrival) : Prop := l.Pairwise (fun a b => a.csn < b.csn)

/-! ### Placing and removing -/

theorem mem_insertArrival {l : List Arrival} {a x : Arrival} : x ∈ insertArrival l a ↔ x = a ∨ x ∈ l := by
  induction l with
  | nil => simp [insertArrival]
  | cons b l ih =>
    simp only [insertArrival]
    split
    · simp
    · simp only [List.mem_cons, ih]
      constructor
      · rintro (h | h | h) <;> simp [h]
      · rintro (h | h | h) <;> simp [h]

theorem length_insertArrival (l : List Arrival) (a : Arrival) : (insertArrival l a).length = l.length + 1 := by
  induction l with
  | nil => rfl
  | cons b l ih =>
    simp only [insertArrival]
    split
    · simp
    · simp [ih]

/-- An arrival placed by a CSN that no other holds keeps the order (R59). -/
theorem insertArrival_ascending {l : List Arrival} {a : Arrival} (h : ascending l) (hn : ∀ x ∈ l, x.csn ≠ a.csn) :
    ascending (insertArrival l a) := by
  induction l with
  | nil => simp [insertArrival]
  | cons b l ih =>
    have hb := List.pairwise_cons.mp h
    simp only [insertArrival]
    split
    · next hlt =>
      refine List.pairwise_cons.mpr ⟨fun x hx => ?_, h⟩
      rcases List.mem_cons.mp hx with rfl | hx
      · exact hlt
      · exact Nat.lt_trans hlt (hb.1 x hx)
    · next hge =>
      refine List.pairwise_cons.mpr ⟨fun x hx => ?_, ih hb.2 fun x hx => hn x (by simp [hx])⟩
      rcases mem_insertArrival.mp hx with rfl | hx
      · have := hn b (by simp)
        omega
      · exact hb.1 x hx

theorem removeArrival_ascending {l : List Arrival} (h : ascending l) (k : Nat) : ascending (removeArrival l k) :=
  h.sublist List.filter_sublist

/-- Removing the CSN of a listed arrival removes that arrival alone. -/
theorem length_removeArrival {l : List Arrival} (h : ascending l) {v : Arrival} (hv : v ∈ l) :
    (removeArrival l v.csn).length + 1 = l.length := by
  induction l with
  | nil => simp at hv
  | cons b l ih =>
    have hb := List.pairwise_cons.mp h
    rcases List.mem_cons.mp hv with rfl | hv'
    · have : removeArrival (v :: l) v.csn = l := by
        unfold removeArrival
        rw [List.filter_cons_of_neg (by simp), List.filter_eq_self]
        intro x hx
        have := hb.1 x hx
        simp
        omega
      rw [this]; simp
    · have hlt := hb.1 v hv'
      have : removeArrival (b :: l) v.csn = b :: removeArrival l v.csn := by
        unfold removeArrival
        rw [List.filter_cons_of_pos (by simp; omega)]
      rw [this]
      simpa using ih hb.2 hv'

theorem highest_mem {l : List Arrival} {a : Arrival} (h : highest l = some a) : a ∈ l := by
  induction l generalizing a with
  | nil => simp [highest] at h
  | cons b l ih =>
    simp only [highest] at h
    split at h
    · cases h; simp
    · next x hx =>
      split at h <;> cases h
      · simp
      · exact List.mem_cons_of_mem _ (ih hx)

theorem lowest_mem {l : List Arrival} {a : Arrival} (h : lowest l = some a) : a ∈ l := by
  induction l generalizing a with
  | nil => simp [lowest] at h
  | cons b l ih =>
    simp only [lowest] at h
    split at h
    · cases h; simp
    · next x hx =>
      split at h <;> cases h
      · simp
      · exact List.mem_cons_of_mem _ (ih hx)

/-- The arrival to discard is one of the list that is not protected (R69). -/
theorem victimOf_spec {l : List Arrival} {a v : Arrival} (h : victimOf l a = some v) :
    v ∈ l ∧ protectedIn (a :: l) v = false := by
  have key : ∀ x, x ∈ l.filter (fun x => !protectedIn (a :: l) x) → x ∈ l ∧ protectedIn (a :: l) x = false := by
    intro x hx
    simpa using List.mem_filter.mp hx
  unfold victimOf at h
  dsimp only at h
  split at h
  · next x hx =>
    cases h
    exact key _ (List.mem_of_mem_filter (highest_mem hx))
  · exact key _ (List.mem_of_mem_filter (lowest_mem h))

/-- What finding or making room can do (R68 to R71). -/
theorem findRoom_cases (l : List Arrival) (n : Nat) (a : Arrival) :
    (l.length < 32 ∧ 0 < n ∧ findRoom l n a = .kept (insertArrival l a) true)
    ∨ ((32 ≤ l.length ∨ n = 0) ∧ ((∃ v ∈ l, protectedIn (a :: l) v = false
          ∧ findRoom l n a = .kept (insertArrival (removeArrival l v.csn) a) false)
        ∨ (protectedIn (a :: l) a = false ∧ findRoom l n a = .discarded)
        ∨ (protectedIn (a :: l) a = true ∧ findRoom l n a = .unattached))) := by
  unfold findRoom Config.listArrivals
  split
  · next h => exact .inl ⟨h.1, h.2, rfl⟩
  · next h =>
    refine .inr ⟨by omega, ?_⟩
    split
    · next v hv => exact .inl ⟨v, (victimOf_spec hv).1, (victimOf_spec hv).2, rfl⟩
    · cases hp : protectedIn (a :: l) a
      · exact .inr (.inl ⟨rfl, by simp⟩)
      · exact .inr (.inr ⟨rfl, by simp⟩)

/-- The lock changes the lock CSN and two flags only (R72, R73). -/
theorem CaseRecord.lockOn_frame (r : CaseRecord) (c : Nat) (a : Arrival) :
    r.lockOn c a = { r with
      lockCsn := (r.lockOn c a).lockCsn
      flags := { r.flags with
        cardLocked := (r.lockOn c a).flags.cardLocked, lockBreach := (r.lockOn c a).flags.lockBreach } } := by
  unfold CaseRecord.lockOn; split <;> rfl

/-! ### Attachment in the Case Table -/

/-- What attaching a record to case `c` keeps: the table's form, every other case, and of `c` all but its evidence; the lists stay
in order and the pool's slots are accounted for. -/
structure AttachStep (c : Nat) (s t : State) : Prop where
  table : t.tableOk
  other : ∀ j, j ≠ c → t.caseAt j = s.caseAt j
  free : (t.caseAt c).state = (s.caseAt c).state
  oldCard : (t.caseAt c).oldCard = (s.caseAt c).oldCard
  newCard : (t.caseAt c).newCard = (s.caseAt c).newCard
  pool : s.poolOk → t.poolOk

theorem AttachStep.of_cases {c : Nat} {s t : State} (hw : s.tableOk) (h : t.cases = s.cases) (hp : t.poolFree = s.poolFree) :
    AttachStep c s t where
  table := (RecordStep.of_cases hw h).table
  other := fun j _ => State.caseAt_congr h j
  free := by rw [State.caseAt_congr h]
  oldCard := by rw [State.caseAt_congr h]
  newCard := by rw [State.caseAt_congr h]
  pool := by
    unfold State.poolOk State.tableOk State.slotsInUse
    rw [h, hp]
    exact id

theorem AttachStep.trans {c : Nat} {s t u : State} (h : AttachStep c s t) (k : AttachStep c t u) : AttachStep c s u where
  table := k.table
  other := fun j hj => (k.other j hj).trans (h.other j hj)
  free := k.free.trans h.free
  oldCard := k.oldCard.trans h.oldCard
  newCard := k.newCard.trans h.newCard
  pool := k.pool ∘ h.pool

/-- Writing a live record with a list and a pool count that agree. -/
theorem AttachStep.write {c : Nat} {s t : State} (hw : s.tableOk) (hn : (s.caseAt c).state ≠ .free) {r : CaseRecord}
    (ht : t.cases = tableSet CaseRecord.reset s.cases c r) (hs : r.state = (s.caseAt c).state)
    (ho : r.oldCard = (s.caseAt c).oldCard) (hk : r.newCard = (s.caseAt c).newCard)
    (hl : (s.caseAt c).listOk → r.listOk)
    (hp : s.poolOk → r.arrivals.length + t.poolFree = (s.caseAt c).arrivals.length + s.poolFree) : AttachStep c s t := by
  have hsame : t.caseAt c = r := by unfold State.caseAt; rw [ht]; exact tableGet_set_same hw.1.1 c r
  have htab : t.tableOk := by
    have := State.setCase_tableOk hw (hw.live_lt hn) (r := r) (fun k => absurd (hs ▸ k) hn)
    unfold State.tableOk at this ⊢
    rw [ht]; exact this
  refine ⟨htab, fun j hj => ?_, by rw [hsame, hs], by rw [hsame, ho], by rw [hsame, hk], fun p => ⟨htab, ?_, ?_⟩⟩
  · unfold State.caseAt; rw [ht]; exact tableGet_set_other hj
  · intro e he
    rw [ht] at he
    rcases mem_tableSet he with rfl | he
    · exact hl (p.2.1 _ (s.listed_of_ne_free c hn))
    · exact p.2.1 e he
  · have h1 := State.setCase_slots hw c r
    have h2 : t.slotsInUse = (s.setCase c r).slotsInUse := by unfold State.slotsInUse; rw [ht]; rfl
    have h3 := hp p
    have h4 := p.2.2
    omega

/-- Writing a live record whose list is as it was. -/
theorem AttachStep.keep {c : Nat} {s t : State} (hw : s.tableOk) (hn : (s.caseAt c).state ≠ .free) {r : CaseRecord}
    (ht : t.cases = tableSet CaseRecord.reset s.cases c r) (hpf : t.poolFree = s.poolFree)
    (h : SameCase (s.caseAt c) r) (hs : r.state = (s.caseAt c).state) : AttachStep c s t :=
  .write hw hn ht hs h.oldCard h.newCard
    (fun k => by unfold CaseRecord.listOk at *; rw [h.arrivals, h.baseline]; exact k)
    (fun _ => by rw [h.arrivals, hpf])

/-- New evidence, by the room found for it (R64, R68 to R71). -/
theorem AttachStep.takeNew {c : Nat} {s : State} (hw : s.tableOk) (hn : (s.caseAt c).state ≠ .free) {a : Arrival}
    (hb : (s.caseAt c).baselineCsn < a.csn) (hx : ∀ x ∈ (s.caseAt c).arrivals, x.csn ≠ a.csn) :
    AttachStep c s (s.takeNew c a).1 := by
  have hf := (s.caseAt c).lockOn_frame c a
  have ha : ((s.caseAt c).lockOn c a).arrivals = (s.caseAt c).arrivals := by rw [hf]
  have hs : ((s.caseAt c).lockOn c a).state = (s.caseAt c).state := by rw [hf]
  have ho : ((s.caseAt c).lockOn c a).oldCard = (s.caseAt c).oldCard := by rw [hf]
  have hk : ((s.caseAt c).lockOn c a).newCard = (s.caseAt c).newCard := by rw [hf]
  have hbl : ((s.caseAt c).lockOn c a).baselineCsn = (s.caseAt c).baselineCsn := by rw [hf]
  unfold State.takeNew
  dsimp only
  rw [ha]
  rcases findRoom_cases (s.caseAt c).arrivals s.poolFree a with ⟨h32, hpos, e⟩ | ⟨_, ⟨v, hv, _, e⟩ | ⟨_, e⟩ | ⟨_, e⟩⟩
  · rw [e]
    refine AttachStep.write hw hn (r := { ((s.caseAt c).lockOn c a).taken a with
      arrivals := insertArrival (s.caseAt c).arrivals a }) (by simp) hs ho hk ?_ ?_
    · intro k
      refine ⟨?_, insertArrival_ascending k.2.1 hx, fun x m => ?_⟩
      · show (insertArrival _ a).length ≤ 32
        rw [length_insertArrival]; omega
      · rcases mem_insertArrival.mp m with rfl | m
        · show ((s.caseAt c).lockOn c x).baselineCsn < _
          rw [hbl]; exact hb
        · show ((s.caseAt c).lockOn c a).baselineCsn < _
          rw [hbl]; exact k.2.2 x m
    · intro _
      show (insertArrival _ a).length + (State.placeEvidence _ c).poolFree = _
      rw [length_insertArrival, State.placeEvidence_poolFree]
      show _ + (s.poolFree - 1) = _
      omega
  · rw [e]
    refine AttachStep.write hw hn (r := { ((s.caseAt c).lockOn c a).taken a with
      arrivals := insertArrival (removeArrival (s.caseAt c).arrivals v.csn) a
      pruned := bumpPruned ((s.caseAt c).lockOn c a).pruned }) (by simp) hs ho hk ?_ ?_
    · intro k
      refine ⟨?_, insertArrival_ascending (removeArrival_ascending k.2.1 _) ?_, fun x m => ?_⟩
      · show (insertArrival _ a).length ≤ 32
        rw [length_insertArrival, length_removeArrival k.2.1 hv]; exact k.1
      · exact fun x m => hx x (List.mem_of_mem_filter m)
      · rcases mem_insertArrival.mp m with rfl | m
        · show ((s.caseAt c).lockOn c x).baselineCsn < _
          rw [hbl]; exact hb
        · show ((s.caseAt c).lockOn c a).baselineCsn < _
          rw [hbl]; exact k.2.2 x (List.mem_of_mem_filter m)
    · intro p
      have k := p.2.1 _ (s.listed_of_ne_free c hn)
      show (insertArrival _ a).length + (State.placeEvidence _ c).poolFree = _
      rw [length_insertArrival, length_removeArrival k.2.1 hv, State.placeEvidence_poolFree]
      rfl
  · rw [e]
    exact AttachStep.keep hw hn (r := { ((s.caseAt c).lockOn c a).taken a with
        pruned := bumpPruned ((s.caseAt c).lockOn c a).pruned }) (by simp) (by simp)
      (.live hn (fun k => hn (hs ▸ k)) ho hk ha hbl) hs
  · rw [e]
    exact AttachStep.keep hw hn (r := { (s.caseAt c).lockOn c a with
        arrivals := (s.caseAt c).arrivals
        flags := { ((s.caseAt c).lockOn c a).flags with evidenceLost := true } }) (by dsimp only; rfl) (by dsimp only; rfl)
      (.live hn (fun k => hn (hs ▸ k)) ho hk rfl hbl) hs

/-- The outcome of attachment to a live case (R61 to R71). -/
theorem AttachStep.attachOutcome {c : Nat} {s : State} (hw : s.tableOk) (hn : (s.caseAt c).state ≠ .free) (a : Arrival) :
    AttachStep c s (s.attachOutcome c a).1 := by
  unfold State.attachOutcome
  dsimp only
  split
  · exact .of_cases hw rfl rfl
  · next hb =>
    split
    · split
      · exact .of_cases hw rfl rfl
      · exact .keep hw hn (r := { s.caseAt c with flags := { (s.caseAt c).flags with conflict := true } }) rfl rfl
          ⟨Iff.rfl, rfl, rfl, rfl, rfl⟩ rfl
    · next hx =>
      split
      · exact .of_cases hw rfl rfl
      · refine .takeNew hw hn (by omega) fun x m k => ?_
        have := List.find?_eq_none.mp hx x m
        simp [k] at this

/-- Attachment of a record to a live case (R61 to R73). -/
theorem AttachStep.attach {c : Nat} {s : State} (hw : s.tableOk) (hn : (s.caseAt c).state ≠ .free) (a : Arrival) :
    AttachStep c s (s.attach c a).1 := by
  have h1 := AttachStep.attachOutcome hw hn a
  have h2 : AttachStep c (s.attachOutcome c a).1 (s.attach c a).1 := by
    unfold State.attach
    dsimp only
    unfold State.checkBreach
    split
    · exact .keep h1.table (by rw [h1.free]; exact hn) (r := (State.caseAt _ c).breach) rfl rfl
        ⟨Iff.rfl, rfl, rfl, rfl, rfl⟩ rfl
    · exact .of_cases h1.table rfl rfl
  exact h1.trans h2

theorem State.casesOk.attach {s : State} (hw : s.tableOk) (h : s.casesOk) (c : Nat) (a : Arrival)
    (hn : (s.caseAt c).state ≠ .free) : (s.attach c a).1.casesOk :=
  (h.attachOutcome c a hn).checkBreach c a.csn (by rw [(AttachStep.attachOutcome hw hn a).free]; exact hn)

/-- Every restore ref is foreign to a FREE record: it has used no generation (R130). -/
theorem collectionRow_freeWith (i : BitVec 8) (c : Nat) (ref : Ref) :
    collectionRow (CaseRecord.freeWith i) c ref = .foreign := by
  unfold collectionRow
  by_cases h1 : ref.caseNo ≠ c ∨ ref.inst ≠ i
  · exact if_pos h1
  · by_cases h2 : ref.generation = 0
    · simp [h2, CaseRecord.freeWith]
    · have h3 : ¬ ref.generation ≤ 0 := by omega
      simp [h2, h3, CaseRecord.freeWith]

end Sys2Proof.Machine
end

