-- ==== Sys2Proof/Laws/Bytes.lean ====
section
/-! SUPPORT. Reading a field of some bytes that were written field by field: the lengths, and the number a field gives back;
and what the walks over a parcel's bytes give. -/

namespace Sys2Proof.Machine

@[simp] theorem length_beBytes (w n : Nat) : (beBytes w n).length = w := by
  induction w generalizing n with
  | zero => rfl
  | succ w ih => simp [beBytes, ih]

@[simp] theorem length_intBytes (i : Int) : (intBytes i).length = 4 := by simp [intBytes]

@[simp] theorem length_cardBytes (c : CardId) : (cardBytes c).length = 7 := by simp [cardBytes]

@[simp] theorem length_refBytes (r : Ref) : (refBytes r).length = 4 := by simp [refBytes]

@[simp] theorem length_grantBytes (g : Grant) : g.bytes.length = 10 := by
  unfold Grant.bytes; dsimp only; split <;> simp

@[simp] theorem length_withLength (bs : List Byte) : (withLength bs).length = bs.length + 2 := by
  simp [withLength]; omega

/-- The number some bytes carry, read on from a number. -/
theorem foldl_beBytes (w : Nat) : ∀ n a, (beBytes w n).foldl (fun n b => n * 256 + b.toNat) a = a * 256 ^ w + n % 256 ^ w := by
  induction w with
  | zero => intro n a; simp [beBytes, Nat.mod_one]
  | succ w ih =>
    intro n a
    rw [beBytes, List.foldl_cons, ih, BitVec.toNat_ofNat]
    have h : n % 256 ^ (w + 1) = n / 256 ^ w % 256 * 256 ^ w + n % 256 ^ w := by
      rw [Nat.pow_succ, Nat.mod_mul]; ring
    have h2 : (2 : Nat) ^ 8 = 256 := rfl
    rw [h, h2, Nat.pow_succ]
    ring

/-- A number read back from its field. -/
@[simp] theorem beNat_beBytes {w n : Nat} (h : n < 256 ^ w) : beNat (beBytes w n) = n := by
  rw [beNat, foldl_beBytes, Nat.mod_eq_of_lt h]; simp

/-- A field that lies behind some bytes. -/
theorem fieldNat_append_right (as bs : List Byte) {at' w : Nat} (h : as.length ≤ at') :
    fieldNat (as ++ bs) at' w = fieldNat bs (at' - as.length) w := by
  unfold fieldNat fieldBytes
  rw [List.drop_append, List.drop_eq_nil_of_le h, List.nil_append]

/-- A field that lies before some bytes. -/
theorem fieldNat_append_left (as bs : List Byte) {at' w : Nat} (h : at' + w ≤ as.length) :
    fieldNat (as ++ bs) at' w = fieldNat as at' w := by
  unfold fieldNat fieldBytes
  rw [List.drop_append_of_le_length (by omega), List.take_append_of_le_length (by simp; omega)]

/-- A field that is a number's own bytes. -/
theorem fieldNat_self {w n : Nat} (h : n < 256 ^ w) : fieldNat (beBytes w n) 0 w = n := by
  unfold fieldNat fieldBytes
  rw [List.drop_zero, List.take_of_length_le (by simp), beNat_beBytes h]

/-- A number in the field it was written to, between other fields. -/
theorem fieldNat_between (as bs : List Byte) {at' w n : Nat} (ha : at' = as.length) (h : n < 256 ^ w) :
    fieldNat (as ++ beBytes w n ++ bs) at' w = n := by
  subst ha
  rw [fieldNat_append_left _ _ (by simp), fieldNat_append_right _ _ (Nat.le_refl _), Nat.sub_self, fieldNat_self h]

/-- A signed number in the field it was written to, between other fields. -/
theorem fieldInt_between (as bs : List Byte) {at' : Nat} {i : Int} (ha : at' = as.length) (h1 : -2147483648 ≤ i)
    (h2 : i ≤ 2147483647) : fieldInt (as ++ intBytes i ++ bs) at' = i := by
  unfold fieldInt intBytes
  rw [fieldNat_between as bs ha (by have := (BitVec.ofInt 32 i).isLt; simpa using this)]
  rw [BitVec.toNat_ofInt]
  unfold signed32
  split <;> omega

/-- A field read byte by byte, most significant first (11, opening). -/
theorem fieldNat_eq_foldl (bs : List Byte) (at' : Nat) : ∀ w, at' + w ≤ bs.length →
    fieldNat bs at' w = (List.range w).foldl (fun v i => v * 256 + (bs.getD (at' + i) 0).toNat) 0 := by
  intro w
  induction w with
  | zero => intro _; simp [fieldNat, fieldBytes, beNat]
  | succ w ih =>
    intro h
    rw [List.range_succ, List.foldl_append, ← ih (by omega)]
    have e : (bs.drop at').take (w + 1) = (bs.drop at').take w ++ [bs.getD (at' + w) 0] := by
      rw [List.take_add_one, List.getElem?_drop, List.getElem?_eq_getElem (by omega), List.getD_eq_getElem _ _ (by omega)]
      rfl
    simp only [fieldNat, fieldBytes, beNat, e, List.foldl_append, List.foldl_cons, List.foldl_nil]

/-- A ref read from its value gives it back (R116). -/
theorem Ref.value_refOf {v : Nat} (h : v < 4294967296) :
    (refOf v).value = v ∧ (refOf v).caseNo < 2048 ∧ (refOf v).generation < 8192 := by
  refine ⟨?_, ?_, ?_⟩ <;> simp only [refOf, Ref.value, BitVec.toNat_ofNat] <;> omega

/-- What the split of an UPLOAD parcel's bytes gives: so many records of 48 bytes that make up the bytes (R188). -/
theorem splitRecords_eq_some {es : List (List Byte)} : ∀ {n : Nat} {bs : List Byte},
    splitRecords n bs = some es ↔ es.length = n ∧ es.flatten = bs ∧ ∀ e ∈ es, e.length = 48 := by
  induction es with
  | nil =>
    intro n bs
    cases n <;> cases bs <;> simp [splitRecords]
  | cons e es ih =>
    intro n bs
    cases n with
    | zero => cases bs <;> simp [splitRecords]
    | succ n =>
      simp only [splitRecords]
      split
      · next h =>
        simp only [reduceCtorEq, false_iff, not_and]
        rintro - rfl he
        have := he e (List.mem_cons_self ..)
        simp [this] at h
      · next h =>
        simp only [Option.map_eq_some_iff, List.cons.injEq]
        constructor
        · rintro ⟨l, hs, rfl, rfl⟩
          obtain ⟨rfl, hf, hl⟩ := ih.mp hs
          refine ⟨rfl, ?_, ?_⟩
          · simp [hf]
          · intro x hx
            rcases List.mem_cons.mp hx with rfl | hx
            · simp; omega
            · exact hl x hx
        · rintro ⟨hn, rfl, he⟩
          have e48 := he e (List.mem_cons_self ..)
          refine ⟨es, ih.mpr ⟨by simpa using hn, ?_, fun x hx => he x (List.mem_cons_of_mem _ hx)⟩, ?_, rfl⟩
          · simp [← e48]
          · simp [← e48]

/-- What the walk over the entries of another parcel gives: so many entries that make up the bytes, each opening with its own length,
which is at least 4 (R188). -/
theorem walkEntries_eq_some {es : List (List Byte)} : ∀ {n : Nat} {bs : List Byte},
    walkEntries n bs = some es ↔
      es.length = n ∧ es.flatten = bs ∧ ∀ e ∈ es, 4 ≤ e.length ∧ fieldNat e 0 2 = e.length := by
  have own {e bs : List Byte} (h : 2 ≤ e.length) : fieldNat (e ++ bs) 0 2 = fieldNat e 0 2 :=
    fieldNat_append_left _ _ (by omega)
  induction es with
  | nil =>
    intro n bs
    cases n <;> cases bs <;> simp [walkEntries]
  | cons e es ih =>
    intro n bs
    cases n with
    | zero => cases bs <;> simp [walkEntries]
    | succ n =>
      simp only [walkEntries]
      split
      · next h =>
        simp only [reduceCtorEq, false_iff, not_and]
        rintro - rfl he
        obtain ⟨h4, hl⟩ := he e (List.mem_cons_self ..)
        rw [List.flatten_cons, own (by omega), hl] at h
        simp at h
        omega
      · next h =>
        simp only [Option.map_eq_some_iff, List.cons.injEq]
        constructor
        · rintro ⟨l, hs, rfl, rfl⟩
          obtain ⟨rfl, hf, hl⟩ := ih.mp hs
          refine ⟨rfl, ?_, ?_⟩
          · simp [hf]
          · intro x hx
            rcases List.mem_cons.mp hx with rfl | hx
            · have hlen : (bs.take (fieldNat bs 0 2)).length = fieldNat bs 0 2 := by simp; omega
              refine ⟨by omega, ?_⟩
              rw [hlen]
              conv_rhs => rw [← List.take_append_drop (fieldNat bs 0 2) bs]
              rw [own (by omega)]
            · exact hl x hx
        · rintro ⟨hn, rfl, he⟩
          obtain ⟨h4, hl⟩ := he e (List.mem_cons_self ..)
          rw [List.flatten_cons, own (by omega), hl]
          exact ⟨es, ih.mpr ⟨by simpa using hn, by simp, fun x hx => he x (List.mem_cons_of_mem _ hx)⟩, by simp, rfl⟩

end Sys2Proof.Machine
end

