-- ==== Sys2Proof/Laws/Deadlines.lean ====
section
/-! SUPPORT. What the expiries can do, and the deadlines that expire at the end of the event that set them: the frame, the records
and their soundness, said once for `State.expire` and once for `State.afterReached`. -/

namespace Sys2Proof.Machine

/-! ### Which case expires -/

/-- The case that expires is listed, its deadline has been reached, and it had another one before. -/
theorem State.reachedSince_spec {s t : State} {c : Nat} (h : s.reachedSince t = some c) :
    c ∈ t.cases.map Prod.fst ∧ (t.caseAt c).isDue t.time.now = true ∧ (t.caseAt c).deadline ≠ (s.caseAt c).deadline := by
  have k := List.find?_some h
  simp only [Bool.and_eq_true, decide_eq_true_eq] at k
  exact ⟨List.mem_of_find?_eq_some h, k.1, k.2⟩

/-- No case expires where each either has the deadline it had or has none that part time has reached. -/
theorem State.reachedSince_none {s t : State}
    (h : ∀ c, (t.caseAt c).deadline = (s.caseAt c).deadline ∨ (t.caseAt c).isDue t.time.now = false) :
    s.reachedSince t = none := by
  cases k : s.reachedSince t with
  | none => rfl
  | some c =>
    obtain ⟨-, h1, h2⟩ := State.reachedSince_spec k
    rcases h c with e | e
    · exact absurd e h2
    · rw [h1] at e; cases e

/-- A case whose deadline is due is live. -/
theorem State.reachedSince_live {s t : State} (hw : t.tableOk) {c : Nat} (h : s.reachedSince t = some c) :
    (t.caseAt c).state ≠ .free := by
  intro hf
  have k := (State.reachedSince_spec h).2.1
  rw [hw.free_eq hf] at k
  simp [CaseRecord.isDue, CaseRecord.freeWith] at k

/-- An event that sets no deadline to a value already reached is followed by no expiry. -/
theorem State.afterReached_none {s before : State} (h : before.reachedSince s = none) : s.afterReached before = s := by
  unfold State.afterReached
  generalize 2 * s.cases.length = n
  cases n with
  | zero => rfl
  | succ n => simp [State.expireReached, h]

/-- What every expiry keeps is kept by all that an event is followed by. -/
theorem State.afterReached_keeps {P : State → Prop} {s before : State} (h : P s)
    (step : ∀ (t : State) (c : Nat), P t → before.reachedSince t = some c → P (t.expire c (t.caseAt c))) :
    P (s.afterReached before) := by
  unfold State.afterReached
  generalize 2 * s.cases.length = n
  induction n generalizing s with
  | zero => exact h
  | succ n ih =>
    unfold State.expireReached
    split
    · next c hc => exact ih (step s c h hc)
    · exact h

/-! ### The frame -/

theorem CaseStep.collectionExpires (s : State) (c : Nat) (r : CaseRecord) : CaseStep s (s.collectionExpires c r) :=
  CaseStep.endEvent (o := (_, _)) ((((CaseStep.setCase s c _).trans (.withdraw _ _)).trans (.setCase _ _ _)).trans (.raiseEvent _ _ _))

theorem CaseStep.tailExpires (s : State) (c : Nat) (r : CaseRecord) : CaseStep s (s.tailExpires c r) :=
  (CaseStep.setCase s c _).trans (.raiseEvent _ _ _)

theorem PartStep.windowExpires (s : State) (c : Nat) (r : CaseRecord) : PartStep s (s.windowExpires c r) :=
  (CaseStep.setCase s c _).part.trans (.placeRequest _ _ _)

/-- An expiry touches the Case Table, the settle request FIFO, the Action Queue and the events, and nothing else (R8). -/
theorem PartStep.expire (s : State) (c : Nat) (r : CaseRecord) : PartStep s (s.expire c r) := by
  unfold State.expire
  split
  · exact .windowExpires s c r
  · exact (CaseStep.collectionExpires s c r).part
  · exact (CaseStep.tailExpires s c r).part
  · exact .refl s

theorem PartStep.afterReached {s t : State} (h : PartStep s t) (before : State) : PartStep s (t.afterReached before) :=
  State.afterReached_keeps h fun t c k _ => k.trans (.expire t c _)

/-! ### The records -/

section

variable {s : State} (hw : s.tableOk) {c : Nat} (hn : (s.caseAt c).state ≠ .free)

include hw hn

theorem RecordStep.collectionExpires : RecordStep s (s.collectionExpires c (s.caseAt c)) := by
  have h1 : RecordStep s (s.setCase c (s.caseAt c).expired) := .setCase hw hn ⟨Iff.rfl, rfl, rfl, rfl, rfl⟩
  have h2 := h1.trans (.withdraw h1.table (h1.live hn))
  have h3 := h2.trans (.setCase h2.table (h2.live hn) (r := { ((s.setCase c (s.caseAt c).expired).withdraw c).1.caseAt c with
    state := .lapsed }) (.live (h2.live hn) (by simp) rfl rfl rfl rfl))
  exact RecordStep.endEvent (o := (_, _)) (h3.trans (.of_cases h3.table rfl))

theorem RecordStep.tailExpires : RecordStep s (s.tailExpires c (s.caseAt c)) := by
  have h := RecordStep.setCase hw hn (r := { (s.caseAt c).expired with state := .closed })
    (.live hn (by simp) rfl rfl rfl rfl)
  exact h.trans (.of_cases h.table rfl)

/-- An expiry keeps which records are FREE, the cards, the arrivals and the baselines. -/
theorem RecordStep.expire : RecordStep s (s.expire c (s.caseAt c)) := by
  unfold State.expire
  split
  · have h : RecordStep s (s.setCase c (s.caseAt c).expired) := .setCase hw hn ⟨Iff.rfl, rfl, rfl, rfl, rfl⟩
    exact h.trans (.of_cases h.table (by simp [State.windowExpires]))
  · exact .collectionExpires hw hn
  · exact .tailExpires hw hn
  · exact .refl hw

end

theorem RecordStep.afterReached {s t : State} (h : RecordStep s t) (before : State) :
    RecordStep s (t.afterReached before) :=
  State.afterReached_keeps h fun _ _ k hc =>
    k.trans (.expire k.table (State.reachedSince_live k.table hc))

/-! ### Their soundness -/

section

variable {s : State} (hw : s.tableOk) (h : s.casesOk) {c : Nat} (hn : (s.caseAt c).state ≠ .free)

include h hn

omit hn in
theorem State.casesOk.expired (hn : (s.caseAt c).state ≠ .free) : (s.caseAt c).expired.lifeOk :=
  { h.at c with free := fun k => absurd k hn, deadline := fun d k => by simp [CaseRecord.expired] at k }

include hw

theorem State.casesOk.collectionExpires : (s.collectionExpires c (s.caseAt c)).casesOk := by
  have r1 : RecordStep s (s.setCase c (s.caseAt c).expired) := .setCase hw hn ⟨Iff.rfl, rfl, rfl, rfl, rfl⟩
  have c1 := h.setCase c (h.expired hn)
  have w := State.withdraw_caseAt r1.table (c := c)
  rw [State.caseAt_setCase_same _ hw.1] at w
  have r2 := r1.trans (.withdraw r1.table (r1.live hn))
  have c2 := c1.withdraw r1.table (r1.live hn)
  have r3 := r2.trans (.setCase r2.table (r2.live hn) (r := { ((s.setCase c (s.caseAt c).expired).withdraw c).1.caseAt c with
    state := .lapsed }) (.live (r2.live hn) (by simp) rfl rfl rfl rfl))
  refine State.casesOk.endEvent (o := (_, _)) (r3.table.raiseEvent _ _) (State.casesOk.raiseEvent (c2.setCase c ?_) _ _)
  exact
    { c2.at c with
      free := fun x => by simp at x
      deadline := fun d x => by rw [show _ = some d from x] at w; simp [CaseRecord.expired] at w
      outstanding := fun o x => by simp [w.1] at x
      owed := fun x => by simp [w.2.1] at x
      collecting := fun x => by simp at x }

omit hw hn in
theorem State.casesOk.tailExpires (hs : (s.caseAt c).state = .collected) : (s.tailExpires c (s.caseAt c)).casesOk := by
  have hno := (h.at c).none_outstanding (by rw [hs]; decide)
  refine State.casesOk.raiseEvent (h.setCase c ?_) _ _
  exact
    { h.at c with
      free := fun x => by simp at x
      deadline := fun d x => by simp [CaseRecord.expired] at x
      outstanding := fun o x => by simp [CaseRecord.expired, hno.1] at x
      owed := fun x => by simp [CaseRecord.expired, hno.2] at x
      collecting := fun x => by simp at x }

/-- An expiry keeps every case record sound. -/
theorem State.casesOk.expire : (s.expire c (s.caseAt c)).casesOk := by
  unfold State.expire
  split
  · exact (h.setCase c (h.expired hn)).congr (by simp [State.windowExpires])
  · exact h.collectionExpires hw hn
  · next hd =>
    cases hx : (s.caseAt c).deadline with
    | none => simp [hx] at hd
    | some d =>
      have := (h.at c).deadline d hx
      simp only [hx, Option.map_some, Option.some.injEq] at hd
      rw [hd] at this
      exact h.tailExpires this.1
  · exact h

end

theorem State.casesOk.afterReached {s : State} (hw : s.tableOk) (h : s.casesOk) (before : State) :
    (s.afterReached before).casesOk :=
  (State.afterReached_keeps (P := fun t => t.tableOk ∧ t.casesOk) ⟨hw, h⟩ fun _ _ k hc =>
    have hn := State.reachedSince_live k.1 hc
    ⟨(RecordStep.expire k.1 hn).table, k.2.expire k.1 hn⟩).2

/-! ### One case's deadline -/

/-- A case that owes nothing is not served. -/
theorem State.servable_of_owes {s : State} {c : Nat} (h : (s.caseAt c).owes = false) : s.servable c = false := by
  unfold CaseRecord.owes at h
  simp only [Bool.or_eq_false_iff] at h
  unfold State.servable
  simp [h.1.1, h.1.2, h.2]

/-- Where no case owes an entry, room that is freed serves none (R122). -/
theorem State.serveCases_idle {s : State} (h : ∀ c, (s.caseAt c).owes = false) : ∀ cs, s.serveCases cs = s := by
  intro cs
  induction cs with
  | nil => rfl
  | cons c cs ih => unfold State.serveCases; simp [State.servable_of_owes (h c), ih]

/-- An event after which a single case expires, and none after it, is followed by that expiry alone. -/
theorem State.afterReached_one {s t : State} {c : Nat} (h : s.reachedSince t = some c)
    (k : s.reachedSince (t.expire c (t.caseAt c)) = none) : t.afterReached s = t.expire c (t.caseAt c) := by
  unfold State.afterReached
  have hl : 0 < t.cases.length := by
    have := (State.reachedSince_spec h).1
    cases hx : t.cases with
    | nil => simp [hx] at this
    | cons => simp
  obtain ⟨n, hn⟩ : ∃ n, 2 * t.cases.length = n + 1 + 1 := ⟨2 * t.cases.length - 2, by omega⟩
  rw [hn, State.expireReached, h]
  simp [State.expireReached, k]

theorem CaseRecord.isDue_none {r : CaseRecord} (h : r.deadline = none) (now : Nat) : r.isDue now = false := by
  simp [CaseRecord.isDue, h]

/-- A withdrawal touches its case's record, in the outstanding action, ISSUE_OWED and what it owes, and the Action Queue (R123). -/
theorem State.withdraw_frame {s : State} (hw : s.tableOk) (c : Nat) :
    s.sameCasesBut (s.withdraw c).1 c
      ∧ (s.withdraw c).1 = { s with cases := (s.withdraw c).1.cases, actions := (s.withdraw c).1.actions }
      ∧ (s.withdraw c).1.caseAt c = { (s.caseAt c).clearOutstanding with owed := ((s.withdraw c).1.caseAt c).owed } := by
  have hs := State.caseAt_setCase_same s hw.1 c (s.caseAt c).clearOutstanding
  have ho : s.sameCasesBut (s.setCase c (s.caseAt c).clearOutstanding) c := fun j hj => State.caseAt_setCase_other s hj _
  have any : ∀ t : State, t.cases = (s.setCase c (s.caseAt c).clearOutstanding).cases →
      s.sameCasesBut t c ∧ t.caseAt c = { (s.caseAt c).clearOutstanding with owed := (t.caseAt c).owed } := by
    intro t ht
    refine ⟨fun j hj => (State.caseAt_congr ht j).trans (ho j hj), ?_⟩
    rw [State.caseAt_congr ht, hs]
  unfold State.withdraw
  dsimp only
  split
  · exact ⟨(any _ rfl).1, rfl, (any _ rfl).2⟩
  · split
    · exact ⟨(any _ rfl).1, rfl, (any _ rfl).2⟩
    · split
      · exact ⟨(any _ rfl).1, rfl, (any _ rfl).2⟩
      · unfold State.placeWithdraw
        dsimp only
        split
        · exact ⟨(any _ rfl).1, rfl, (any _ rfl).2⟩
        · refine ⟨fun j hj => ?_, rfl, ?_⟩
          · rw [State.caseAt_setCase_other _ hj]; exact ho j hj
          · rw [State.caseAt_setCase_same _ (State.setCase_wf _ hw.1 _ _), hs]

/-- An event of one case, with the expiry of a deadline it set: what `State.reachedTaken` says is what `State.afterReached` does. -/
theorem State.reachedTaken_afterReached {s u : State} {c : Nat} (hw : u.tableOk) (ht : u.time = s.time)
    (ho : s.sameCasesBut u c) : s.reachedTaken u (u.afterReached s) c where
  unreached := by
    intro h
    refine State.afterReached_none (State.reachedSince_none fun j => ?_)
    by_cases hj : j = c
    · subst hj
      cases hd : (u.caseAt j).deadline with
      | none => exact .inr (CaseRecord.isDue_none hd _)
      | some d =>
        rcases h d hd with e | e
        · exact .inl e.symm
        · right; simp only [CaseRecord.isDue, hd, ht]; simpa using e
    · rw [ho j hj]; exact .inl rfl
  reached := by
    intro d hd hn hdue
    have hs : s.reachedSince u = some c := by
      have hm : c ∈ u.cases.map Prod.fst := by
        have : (u.caseAt c).state ≠ .free := fun hf => by
          rw [hw.free_eq hf] at hd; simp [CaseRecord.freeWith] at hd
        exact List.mem_map.mpr ⟨_, State.listed_of_ne_free u c this, rfl⟩
      have hc : ((u.caseAt c).isDue u.time.now && decide ((u.caseAt c).deadline ≠ (s.caseAt c).deadline)) = true := by
        simp only [CaseRecord.isDue, hd, ht, Bool.and_eq_true, decide_eq_true_eq]
        exact ⟨hdue, fun e => hn e.symm⟩
      cases k : s.reachedSince u with
      | none =>
        have := List.find?_eq_none.mp k c hm
        exact absurd hc this
      | some j =>
        obtain ⟨-, h1, h2⟩ := State.reachedSince_spec k
        by_cases hj : j = c
        · rw [hj]
        · rw [ho j hj] at h2; exact absurd rfl h2
    have hn' := State.reachedSince_live hw hs
    have rest : ∀ t : State, t.time = u.time → (∀ j, j ≠ c → (t.caseAt j).deadline = (u.caseAt j).deadline) →
        (t.caseAt c).deadline = none → s.reachedSince t = none := by
      intro t _ h1 h2
      refine State.reachedSince_none fun j => ?_
      by_cases hj : j = c
      · subst hj; exact .inr (CaseRecord.isDue_none h2 _)
      · rw [h1 j hj, ho j hj]; exact .inl rfl
    have same := State.caseAt_setCase_same u hw.1 c
    refine ⟨fun hk => ?_, fun hk => ?_, fun hk => ?_⟩
    · have e : u.expire c (u.caseAt c) = u.windowExpires c (u.caseAt c) := by
        unfold State.expire; simp [hd, hk]
      refine (State.afterReached_one hs ?_).trans e
      rw [e]
      refine rest _ (by simp [State.windowExpires]) (fun j hj => ?_) ?_
      · rw [State.caseAt_congr (t := u.setCase c (u.caseAt c).expired) (by simp [State.windowExpires]), State.caseAt_setCase_other _ hj]
      · rw [State.caseAt_congr (t := u.setCase c (u.caseAt c).expired) (by simp [State.windowExpires]), same]; rfl
    · intro w freed hwd hfree
      have e : u.expire c (u.caseAt c) = u.collectionExpires c (u.caseAt c) := by
        unfold State.expire; simp [hd, hk]
      have r1 : RecordStep u (u.setCase c (u.caseAt c).expired) := .setCase hw hn' ⟨Iff.rfl, rfl, rfl, rfl, rfl⟩
      have r2 := r1.trans (.withdraw r1.table (r1.live hn'))
      have hww : (u.setCase c (u.caseAt c).expired).withdraw c = (w, freed) := hwd.symm
      rw [hww] at r2
      have tw : w.tableOk := r2.table
      have wf := State.withdraw_frame r1.table c
      rw [hww] at wf
      obtain ⟨wo, wf, wc⟩ := wf
      rw [same] at wc
      replace wo : ∀ j, j ≠ c → w.caseAt j = u.caseAt j := fun j hj => (wo j hj).trans (State.caseAt_setCase_other u hj _)
      set t0 := (w.setCase c { w.caseAt c with state := .lapsed }).raiseEvent c (.lapsed (u.caseAt c).lapsedGeneration) with ht0
      have c0 : t0.caseAt c = { w.caseAt c with state := .lapsed } := State.caseAt_setCase_same w tw.1 c _
      have co : ∀ j, j ≠ c → t0.caseAt j = w.caseAt j := fun j hj => State.caseAt_setCase_other w hj _
      have ec : u.collectionExpires c (u.caseAt c) = t0 := by
        unfold State.collectionExpires
        simp only [hww]
        unfold endEvent
        dsimp only
        split
        · next hf =>
          rcases hfree with hf' | hall
          · rw [hf'] at hf; cases hf
          · refine State.serveCases_idle (fun j => ?_) _
            by_cases hj : j = c
            · subst hj; rw [show State.caseAt _ j = _ from c0]; exact hall j
            · rw [show State.caseAt _ j = _ from co j hj]; exact hall j
        · rfl
      have fin : u.afterReached s = t0 := by
        refine (State.afterReached_one hs ?_).trans (e.trans ec)
        rw [e, ec]
        refine rest _ ?_ (fun j hj => ?_) ?_
        · show w.time = u.time
          rw [show w = _ from wf]; rfl
        · rw [co j hj, wo j hj]
        · rw [c0, wc]; rfl
      rw [fin]
      refine ⟨co, c0, ?_⟩
      rw [ht0]
      have n0 : ({ w.caseAt c with state := .lapsed } : CaseRecord).inst = (u.caseAt c).inst ∧
          (w.caseAt c).hostTag = (u.caseAt c).hostTag := by rw [wc]; exact ⟨rfl, rfl⟩
      unfold State.raiseEvent State.noticesAfter
      rw [State.caseAt_setCase_same w tw.1]
      dsimp only
      have wn : w.notices = u.notices := by rw [show w = _ from wf]; rfl
      have wt : w.time = u.time := by rw [show w = _ from wf]; rfl
      simp only [State.setCase_notices, State.setCase_time, wn, wt, n0.2, List.foldl_cons, List.foldl_nil]
      rw [show (w.caseAt c).inst = _ from n0.1]
      rfl
    · have e : u.expire c (u.caseAt c) = u.tailExpires c (u.caseAt c) := by
        unfold State.expire; simp [hd, hk]
      have fin : u.afterReached s = u.tailExpires c (u.caseAt c) := by
        refine (State.afterReached_one hs ?_).trans e
        rw [e]
        refine rest _ rfl (fun j hj => ?_) ?_
        · exact congrArg CaseRecord.deadline (State.caseAt_setCase_other u hj _)
        · exact congrArg CaseRecord.deadline (same _)
      rw [fin]
      refine ⟨fun j hj => State.caseAt_setCase_other u hj _, same _, ?_⟩
      unfold State.tailExpires State.raiseEvent State.noticesAfter
      rw [same]
      simp [CaseRecord.expired, State.setCase]

end Sys2Proof.Machine
end

