-- ==== Sys2Proof/WellFormed.lean ====
section
/-! DEFINITION. Which commands the world outside the part can send: a received frame has at least the 46-byte minimum payload of
an Ethernet frame (R187). Every meaning is total all the same: an ill-formed frame is taken as the rules read it. -/

namespace Sys2Proof

/-- A frame a port can hand over (R187, DEDUCED, assumption 20). -/
def RxFrame.wf (f : RxFrame) : Bool := decide (Config.minPayload ≤ f.payload.length)

/-- The well-formed commands. -/
def Instr.wf : Instr → Bool
  | .dpParcelArrival f => f.wf
  | .cpParcelArrival f => f.wf
  | .hardReset | .initializationEnd | .linkDown _ | .linkUp _ | .intakeTakeParcel | .dispositionStartParcel
  | .recordDisposition | .forwardQueueEntry | .cpOutputGrant | .cpSendComplete | .controlParcelStart | .openCase
  | .cancelCase | .releaseCase | .forceSettle | .reissue | .readCase | .readArrivals | .seek | .get | .put
  | .patchBegin | .patchEnd | .switchPolicy | .intercept | .setTime | .readStatus | .setNoticeMask | .readLog
  | .clearLog | .softReset | .partTimeAdvance | .windowEndExpiry | .collectionDeadlineExpiry | .tailEndExpiry
  | .settleOperationStart | .settlementCompletion | .actionParcelStart | .actionParcelSent | .noticeBuild
  | .unknownCommand => true

end Sys2Proof
end

