-- ==== Sys2Proof/Tests/Slice0.lean ====
section
/-! SUPPORT. Tests: the check of WellFormed refuses an ill-formed frame; single steps whose results are the manual's worked examples or
hand calculation from its rules; and, for every statement with hypotheses, a named witness that meets them together. -/

namespace Sys2Proof.Machine.Tests

/-! ### Helpers -/

/-- A READY part with the clock SET at the manual's example time (R11). -/
def ready : State := { State.reset with init := .ready, time := ⟨.set, 812400000⟩ }

/-- A command entry (Table 11-5). -/
def entry (code : Byte) (args : List Byte) : List Byte := beBytes 2 (4 + args.length) ++ [code, 0] ++ args

/-- A part whose Control Unit executes a control parcel of one entry. -/
def asking (s : State) (code : Byte) (args : List Byte) : State :=
  { s with
    control := { s.control with phase := .executing [] none }
    cp := { s.cp with queue := [⟨⟨.control, 7, 9, 1⟩, [entry code args]⟩] } }

theorem asking_takes (s : State) (code : Byte) (args : List Byte) (h : s.init = .ready) :
    (asking s code args).takes code args := ⟨h, entry code args, rfl, rfl, rfl⟩

/-- The record of case 5, instance 12, in a state, with the cards and baseline of the worked sequences. -/
def record (state : CaseState) : CaseRecord :=
  { CaseRecord.freeWith 12 with
    state := state, oldCard := 0x101, newCard := 0x202, operator := 3, blockInstant := 812390000, baselineCsn := 118
    timing := some ⟨72, 30, 14, 10800, false⟩ }

/-- A part in which case 5 stands with a record. -/
def withRecord (r : CaseRecord) : State :=
  { ready with cases := [(5, r)], index := [⟨r.oldCard, 5, .old⟩, ⟨r.newCard, 5, .new⟩]
               poolFree := 16384 - r.arrivals.length }

/-- A usage record's bytes: card, kind, CSN, device time, device, presence bits, amount, balance after, mask, ref. -/
def raw (card kind csn time present : Nat) (amount balance : Int) (mask ref : Nat) : List Byte :=
  beBytes 7 card ++ beBytes 1 kind ++ beBytes 4 csn ++ beBytes 4 time ++ beBytes 3 77 ++ beBytes 1 present ++ beBytes 1 3
    ++ [0] ++ intBytes amount ++ intBytes balance ++ [0] ++ beBytes 1 mask ++ List.replicate 9 0 ++ beBytes 4 ref
    ++ [0, 0, 0]

/-- A part about to dispose of one record under an intercept value. -/
def disposing (s : State) (on : Bool) (bytes : List Byte) : State :=
  { s with intake := ⟨[⟨⟨.upload, 7, 9, 1⟩, [⟨bytes, 812400000, none⟩], .inDisposition⟩], on, on⟩ }

theorem disposing_next (s : State) (on : Bool) (bytes : List Byte) :
    (disposing s on bytes).disposesNext ⟨⟨.upload, 7, 9, 1⟩, [⟨bytes, 812400000, none⟩], .inDisposition⟩ []
      ⟨bytes, 812400000, none⟩ := ⟨rfl, rfl, rfl⟩

/-- What a command leaves, or the part itself where it would stop. -/
def after (c : Instr) (s : State) : State :=
  match exec c s with
  | .next t => t
  | .fault _ => s
  | .refused _ => s

/-- The marks of the head parcel of the intake queue. -/
def headMarks (s : State) : List (Option Mark) :=
  match s.intake.queue with
  | [] => []
  | p :: _ => p.records.map IntakeRecord.mark

/-- The last reply entry written. -/
def lastReply (s : State) : Option ReplyEntry :=
  match s.control.phase with
  | .executing replies _ => replies.getLast?
  | .offering replies => replies.getLast?
  | .idle => none

/-- The part right after a command of one entry, and the status it was answered. -/
def answer (c : Instr) (s : State) (code : Byte) (args : List Byte) : Option Status :=
  (lastReply (after c (asking s code args))).map ReplyEntry.status

/-! ### WellFormed -/

/-- R187: a payload of 45 bytes is shorter than an Ethernet frame's. -/
theorem test_short_device_frame_refused : (Instr.dpParcelArrival ⟨true, List.replicate 45 0⟩).wf = false := by decide

theorem test_short_clearing_frame_refused : (Instr.cpParcelArrival ⟨true, List.replicate 45 0⟩).wf = false := by decide

theorem test_minimum_frame_accepted : (Instr.dpParcelArrival ⟨true, List.replicate 46 0⟩).wf = true := by decide

/-! ### Numbers of the worked examples -/

/-- R116: case 5/12, generation 1. -/
theorem test_ref_of_the_example : (⟨5, 12, 1⟩ : Ref).value = 10584065 ∧ refOf 10584065 = ⟨5, 12, 1⟩ := by decide

/-- R11: the three report times of the example. -/
theorem test_block_instant_of_the_example :
    clampInstant 811000000 812400000 14 = 811190400 ∧ clampInstant 812390000 812400000 14 = 812390000 ∧
      clampInstant 812500000 812400000 14 = 812400000 := by decide

/-- R60: the four device times of the example. -/
theorem test_classes_of_the_example :
    [812389999, 812390000, 812700600, 812700601].map (fun t => classOf t 812700000 812390000) =
      [.pre, .post, .post, .untimed] := by decide

/-- R103: the service days of the example. -/
theorem test_service_day_of_the_example : serviceDay 812345600 10800 = 9402 ∧ serviceDay 812343599 10800 = 9401 := by
  decide

/-- R106: the table's five passes under min carry 0 and 3, with block day 9,402; the days of a duration grant, or 0. -/
def carried (first last minCarry : Nat) : Nat :=
  match (periodGrant 0 ⟨1, .period, first, last, 0⟩ 9402 minCarry).1 with
  | some ⟨_, _, .duration days⟩ => days
  | _ => 0

theorem test_period_passes_of_the_example :
    [carried 9390 9419 0, carried 9402 9404 0, carried 9380 9403 0, carried 9380 9402 0, carried 9350 9399 0] = [17, 2, 1, 0, 0] ∧
    [carried 9390 9419 3, carried 9402 9404 3, carried 9380 9403 3] = [17, 0, 0] ∧ carried 9300 9900 0 = 366 := by decide

/-- R89, R90: the three examples of fee, floor and clip. -/
theorem test_purse_stages_of_the_examples :
    purseResult .confirmed (-150) ⟨300, 50000, .holder, 0⟩ false = ⟨-150, .confirmed, 0, 450, 0⟩ ∧
    purseResult .confirmed 200 ⟨300, 50000, .holder, 0⟩ false = ⟨200, .confirmed, 0, 100, 0⟩ ∧
    purseResult .confirmed 52300 ⟨300, 50000, .holder, 0⟩ false = ⟨52300, .confirmed, 50000, 0, 2000⟩ := by decide

/-- An arrival by CSN, class, amount and balance after. -/
def arrival (csn : Nat) (cls : ArrivalClass) (amount balance : Int) : Arrival :=
  ⟨csn, .purseUse, 812389000, 812400000, 77, 3, amount, balance, none, none, none, cls⟩

/-- The list of section 4.7: 119 to 121 PRE, 124 POST, all seen above baseline CSN 118; A = 2,060, balance before p 1,840. -/
def example47 : Evidence :=
  ⟨[arrival 119 .pre 0 2500, arrival 120 .pre 0 2300, arrival 121 .pre 0 2060, arrival 124 .post (-250) 1590],
    0b100111, 118, 2700, [], 812390000, false, some ⟨72, 30, 14, 10800, false⟩, none⟩

/-- R82, R83, R86: the example's anchor, missing set, purse gaps and basis under either policy. -/
theorem test_basis_of_the_example :
    example47.anchorCsn = 121 ∧ example47.missing = 2 ∧ example47.purseGaps = 2 ∧ example47.status = .gapResolved ∧
      example47.basis .holder = 2060 ∧ example47.basis .operator = 1840 := by decide +kernel

/-! ### Single steps -/

theorem test_hard_reset_initializes : (after .hardReset ready).init = .initializing := by decide

theorem test_initialization_end_readies : (after .initializationEnd State.reset).init = .ready := by decide

theorem test_link_down_cuts_the_action_parcel :
    (after (.linkDown .device) { ready with actions := ⟨[.withdraw ⟨5, 12, 1⟩ 2], [.withdraw ⟨5, 12, 2⟩ 2], 4⟩ }).actions =
      ⟨[], [.withdraw ⟨5, 12, 1⟩ 2, .withdraw ⟨5, 12, 2⟩ 2], 4⟩ := by decide

theorem test_link_up_device : (after (.linkUp .device) ready).dp.link = .up := by decide

/-- R31: the ninth parcel is dropped and counted. -/
theorem test_ninth_parcel_dropped :
    let t := after (.dpParcelArrival ⟨true, List.replicate 46 0⟩)
      { ready with dp := ⟨.up, List.replicate 8 [], false, 0⟩ }
    t.dp.dropped = 1 ∧ t.dp.dropRun = true ∧ t.dp.buffer.length = 8 := by decide

/-- A CONTROL parcel of one GET, framed by the part's own framing. -/
def controlFrame : RxFrame := ⟨true, (frameOf .clearing (parcelOf ⟨.control, 7, 9, 1⟩ [entry 9 []])).payload⟩

theorem test_control_parcel_queued :
    (after (.cpParcelArrival controlFrame) { ready with cp := ⟨.up, [], none⟩ }).cp.queue =
      [⟨⟨.control, 7, 9, 1⟩, [[0, 4, 9, 0]]⟩] := by decide

/-- The payload of a frame with one UPLOAD record, bytes written out from Tables 11-1 and 11-2: card 0x101, PURSE_USE. -/
def uploadPayload : List Byte := [0, 56, 1, 1, 0, 0, 7, 0, 9, 1] ++ raw 0x101 1 119 812389000 0 (-120) 1940 0 0

theorem test_upload_read_from_its_bytes :
    checkParcel uploadPayload = .ok ⟨⟨.upload, 7, 9, 1⟩, [raw 0x101 1 119 812389000 0 (-120) 1940 0 0]⟩ := by decide

theorem test_usage_record_read_from_its_bytes :
    let u := usageRecord (raw 0x101 1 119 812389000 0 (-120) 1940 0 0)
    u.card = 0x101 ∧ u.kind = some .purseUse ∧ u.csn = 119 ∧ u.deviceTime = 812389000 ∧ u.amount = -120 ∧
      u.balanceAfter = 1940 ∧ u.malformed = false := by decide

/-- Table 5-1, R100: the rides bytes of a PERIOD pass state after are not read; those of a COUNT one are. -/
theorem test_period_rides_are_not_read :
    let bytes (cls : Byte) : List Byte := beBytes 7 0x101 ++ [2] ++ beBytes 4 119 ++ beBytes 4 812389000 ++ beBytes 3 77 ++ [3, 3, 0]
      ++ intBytes 0 ++ intBytes 1940 ++ [1, 0] ++ beBytes 2 9 ++ [cls] ++ beBytes 2 9390 ++ beBytes 2 9402 ++ beBytes 2 7
      ++ beBytes 4 0 ++ [0, 0, 0]
    (usageRecord (bytes 0)).passAfter = some ⟨9, .period, 9390, 9402, 0⟩ ∧
      (usageRecord (bytes 1)).passAfter = some ⟨9, .count, 9390, 9402, 7⟩ := by decide

theorem test_intake_takes_an_upload :
    let t := after .intakeTakeParcel { ready with dp := ⟨.up, [uploadPayload], false, 0⟩ }
    t.dp.buffer = [] ∧ t.intake.used = 1 := by decide

theorem test_disposition_starts :
    ((after .dispositionStartParcel { ready with intake := ⟨[⟨⟨.upload, 7, 9, 1⟩, [⟨[], 0, none⟩], .waiting⟩], true, true⟩
      }).intake.queue.map IntakeParcel.condition) = [.inDisposition] := by decide

theorem test_marked_parcel_forwarded :
    let t := after .forwardQueueEntry
      { ready with intake := ⟨[⟨⟨.upload, 7, 9, 1⟩, [⟨List.replicate 48 0, 0, some .clear⟩], .marked⟩], true, true⟩ }
    t.intake.queue = [] ∧ t.forward.map (fun f => f.records.map (fun r => r.getD 21 0)) = [[1]] := by decide

/-- R131, R22: credit 1,540 against a counted amount of 1,500; the tail end is 14 days on. -/
theorem test_collection_of_the_example :
    let r := { record .issued with
      generation := 1, outstanding := some ⟨1, 1540, []⟩, result := some ⟨1840, .confirmed, 1540, 0, 0⟩ }
    let t := after .recordDisposition
      (disposing (withRecord r) true (raw 0x202 5 1 812399000 12 1500 1500 0 10584065))
    headMarks t = [some .collection] ∧ (t.caseAt 5).applied = 1500 ∧ (t.caseAt 5).unpaid = 40 ∧
      (t.caseAt 5).state = .collected ∧ (t.caseAt 5).deadline = some ⟨.tailEnd, 813609600⟩ ∧ t.log.lost = 0 ∧
      t.log.writeIndex = 1 := by decide +kernel

theorem test_output_prefers_the_notice_to_a_forward :
    (after .cpOutputGrant { ready with
      cp := ⟨.up, [], none⟩, forward := [⟨⟨.upload, 7, 9, 1⟩, []⟩], notices := { ready.notices with parcel := some none }
      }).cp.sending = some .notice := by decide

theorem test_send_complete_frees_the_forward_queue :
    (after .cpSendComplete { ready with cp := ⟨.up, [], some .forward⟩, forward := [⟨⟨.upload, 7, 9, 1⟩, []⟩] }).forward = [] := by
  decide

theorem test_control_parcel_starts :
    (after .controlParcelStart { ready with cp := ⟨.up, [⟨⟨.control, 7, 9, 1⟩, [entry 9 []]⟩], none⟩ }).control.phase =
      .executing [] none := by decide

/-- An OPEN_CASE for operator 3: cards 0x101 and 0x202, tag 1, report time 812,390,000, baseline 118 and 2,700, no passes. -/
def openBytes : List Byte :=
  beBytes 7 0x101 ++ beBytes 7 0x202 ++ [3] ++ beBytes 4 1 ++ [0] ++ beBytes 4 812390000 ++ beBytes 4 118 ++ intBytes 2700 ++ [0]

/-- What those bytes say. -/
def openArgs : OpenArgs := ⟨0x101, 0x202, 3, 1, false, 812390000, 118, 2700, []⟩

theorem test_open_case_read_from_its_bytes : readOpenCase openBytes = some openArgs := by decide

/-- A part whose operator 3 has a valid row. -/
def policed : State :=
  { ready with policy := { PolicyBanks.reset with
      bankA := PolicyBanks.reset.bankA.set 3 { OperatorRow.reset with valid := true } } }

/-- R13: a window end 72 hours after the kept instant. -/
theorem test_open_case_of_the_example :
    let t := after .openCase (asking policed 1 openBytes)
    (t.caseAt 0).state = .collecting ∧ (t.caseAt 0).inst = 1 ∧ (t.caseAt 0).deadline = some ⟨.windowEnd, 812649200⟩ ∧
      lastReply t = some ⟨1, .ok, .opened 0 1⟩ := by decide +kernel

/-- R12, R13: a report time 4 days back under a window of 72 hours: the window end is reached, and a FINAL request waits. -/
theorem test_reached_window_end_asks_at_once :
    let args := beBytes 7 0x101 ++ beBytes 7 0x202 ++ [3] ++ beBytes 4 1 ++ [0] ++ beBytes 4 812054400 ++ beBytes 4 118
      ++ intBytes 2700 ++ [0]
    let t := after .openCase (asking policed 1 args)
    (t.caseAt 0).deadline = none ∧ t.settle.fifo = [⟨0, .final⟩] ∧ lastReply t = some ⟨1, .ok, .opened 0 1⟩ := by decide +kernel

theorem test_values_outside_their_enumerations :
    [answer .openCase policed 1 (openBytes.set 14 64), answer .openCase policed 1 (openBytes ++ [0]),
      answer .intercept ready 14 [2], answer .put ready 10 [4], answer .clearLog ready 19 [254]] =
      List.replicate 5 (some .badArgument) := by decide +kernel

theorem test_cancel_places_unblock :
    let t := after .cancelCase (asking (withRecord (record .collecting)) 2 [0, 5, 12])
    (t.caseAt 5).state = .cancelled ∧ t.actions.untaken = [.unblock ⟨5, 12, 0⟩ 0x101] := by decide

theorem test_release_frees_the_record :
    let t := after .releaseCase (asking (withRecord (record .closed)) 3 [0, 5, 12])
    t.caseAt 5 = CaseRecord.freeWith 12 ∧ t.index = [] := by decide

/-- R15: a basis of −60,000 is clamped to −50,000. -/
theorem test_force_settle_clamps :
    let s := { withRecord (record .collecting) with policy := policed.policy }
    let t := after .forceSettle (asking s 4 ([0, 5, 12] ++ intBytes (-60000) ++ [1]))
    t.settle.fifo = [⟨5, .forced (-50000) true⟩] ∧ (lastReply t).map ReplyEntry.status = some .okClamped := by decide

theorem test_reissue_needs_lapsed : answer .reissue (withRecord (record .issued)) 5 [0, 5, 12] = some .wrongState := by decide

/-- R22, R157: with 0 tail days a case that enters COLLECTED is CLOSED within the same command. -/
theorem test_no_tail_closes_at_once :
    let t := after .reissue (asking (withRecord { record .lapsed with timing := some ⟨72, 30, 0, 10800, false⟩ }) 5 [0, 5, 12])
    (t.caseAt 5).state = .closed ∧ (t.caseAt 5).deadline = none ∧ lastReply t = some ⟨5, .ok, .none⟩ ∧
      t.notices.untaken.map CaseEvent.detail = [.collected 0, .closed 0] := by decide

theorem test_read_case_counts_arrivals :
    (lastReply (after .readCase (asking (withRecord (record .held)) 6 [0, 5, 12]))).map ReplyEntry.result =
      some (.caseRecord 5 (record .held) 0) := by decide

theorem test_read_arrivals_start_32_refused :
    answer .readArrivals (withRecord (record .held)) 7 [0, 5, 12, 32] = some .badArgument := by decide

theorem test_seek_moves : (after .seek (asking ready 8 [2, 0, 31])).control.window.cursor = .blockRanges 31 := by decide

theorem test_seek_past_the_table : answer .seek ready 8 [2, 0, 32] = some .badArgument := by decide

theorem test_get_stays_on_the_last_row :
    let s := { ready with control := ⟨.idle, ⟨.blockRanges 31, none, none⟩, 0⟩ }
    let t := after .get (asking s 9 [])
    t.control.window.cursor = .blockRanges 31 ∧
      lastReply t = some ⟨9, .ok, .latch none (.blockRanges 31)⟩ := by decide

/-- R151: a mask of 16 leading ones is held. -/
theorem test_put_holds_a_short_mask :
    let s := { ready with control := ⟨.idle, ⟨.blockRanges 30, none, none⟩, 0⟩ }
    let t := after .put (asking s 10 ([2, 1] ++ beBytes 7 0x0B770000000000 ++ beBytes 7 0xFFFF0000000000 ++ [0, 0]))
    t.ranges[(30 : Fin 32)] = { RangeRow.reset with rangeHeld := true } ∧
      (lastReply t).map ReplyEntry.status = some .okClamped := by decide

/-- R144: fee 12,000 is held, and the row becomes valid. -/
theorem test_put_holds_a_fee :
    let t := after .put (asking ready 10 ([0, 1] ++ beBytes 2 12000 ++ intBytes 50000 ++ [0] ++ beBytes 2 48 ++ [30, 14]
      ++ beBytes 4 10800 ++ [0, 14, 0]))
    (t.standbyRow 0).fee = 0 ∧ (t.standbyRow 0).valid = true ∧ (t.standbyRow 0).windowHours = 48 ∧
      (t.standbyRow 0).rangeHeld = true := by decide

theorem test_patch_begin_saves :
    (after .patchBegin (asking ready 11 [])).control.window.saved = some (.policyStandby 0) := by decide

theorem test_patch_end_outside_refused : answer .patchEnd ready 12 [] = some .notPatching := by decide

theorem test_switch_flips : (after .switchPolicy (asking ready 13 [])).policy.active = .b := by decide

theorem test_intercept_on : (after .intercept (asking ready 14 [1])).intake.effective = true := by decide

theorem test_intercept_needs_the_clock :
    answer .intercept { ready with time := ⟨.unset, 0⟩ } 14 [1] = some .clockUnset := by decide

/-- R156: the lower limit, 8,640,000. -/
theorem test_set_time_limit :
    answer .setTime ready 15 (beBytes 4 8639999) = some .badArgument ∧
      (after .setTime (asking ready 15 (beBytes 4 8640000))).time = ⟨.set, 8640000⟩ := by decide

theorem test_status_while_initializing : answer .readStatus State.reset 16 [0] = some .ok := by decide

theorem test_masks_written :
    (after .setNoticeMask (asking ready 17 [0, 1])).notices.caseMasked = false := by decide

theorem test_log_start_32_refused : answer .readLog ready 18 [32] = some .badArgument := by decide

theorem test_clear_overflow :
    (after .clearLog (asking { ready with log := { ready.log with overflow := true } } 19 [255])).log.overflow = false := by decide

theorem test_soft_reset_keeps_the_cases :
    let t := after .softReset (asking (withRecord (record .held)) 20 [])
    t.caseAt 5 = record .held ∧ t.notices.caseMasked = true := by decide

theorem test_unknown_code_answered :
    lastReply (after .unknownCommand (asking ready 21 [])) = some ⟨21, .unknownCommand, .none⟩ := by decide

theorem test_second_passes : (after .partTimeAdvance ready).time = ⟨.set, 812400001⟩ := by decide

theorem test_window_end_asks_for_final :
    (after .windowEndExpiry (withRecord { record .collecting with deadline := some ⟨.windowEnd, 812400000⟩ })).settle.fifo =
      [⟨5, .final⟩] := by decide

theorem test_collection_deadline_lapses :
    let r := { record .issued with generation := 1, outstanding := some ⟨1, 1540, []⟩, deadline := some ⟨.collection, 812400000⟩ }
    let t := after .collectionDeadlineExpiry (withRecord r)
    (t.caseAt 5).state = .lapsed ∧ t.actions.untaken = [.withdraw ⟨5, 12, 1⟩ 0x202] := by decide

theorem test_tail_end_closes :
    ((after .tailEndExpiry (withRecord { record .collected with deadline := some ⟨.tailEnd, 812399999⟩ })).caseAt 5).state =
      .closed := by decide

theorem test_operation_starts :
    ((after .settleOperationStart { withRecord (record .collecting) with settle := ⟨[⟨5, .final⟩], none⟩ }).settle.inFlight.map
      Operation.caseNo) = some 5 := by decide

/-- R92: a FINAL that read an invalid row holds the case for NO_POLICY. -/
theorem test_final_without_policy_holds :
    let s := after .settleOperationStart { withRecord (record .collecting) with settle := ⟨[⟨5, .final⟩], none⟩ }
    ((after .settlementCompletion s).caseAt 5).holdReasons = ⟨false, false, false, false, true, false⟩ := by decide

theorem test_action_parcel_takes_the_head :
    let t := after .actionParcelStart { ready with
      dp := ⟨.up, [], false, 0⟩, actions := ⟨[], [.withdraw ⟨5, 12, 1⟩ 2], 0⟩ }
    t.actions.taken.length = 1 ∧ t.actions.untaken = [] := by decide

theorem test_notice_carries_events :
    let e : CaseEvent := ⟨5, 12, 0, 0, .closed 0⟩
    let t := after .noticeBuild { ready with notices := { ready.notices with untaken := [e], caseMasked := false } }
    t.notices.taken = [e] ∧ t.notices.parcel = some none := by decide

/-- R176, R182, R183: with 64 events held and CASE pending clear, a dropped event sets it again (assumption 9). -/
theorem test_dropped_event_sets_case_pending :
    let e : CaseEvent := ⟨5, 12, 0, 0, .closed 0⟩
    let n : NoticeUnit := { ready.notices with untaken := List.replicate 64 e, casePending := false }
    (n.raise e).casePending = true ∧ (n.raise e).lost = 1 ∧ (n.raise e).untaken.length = 64 := by decide

/-- Tables 11-4 and 11-6, written out: a WITHDRAW and a COUNT grant. -/
theorem test_action_entry_bytes :
    (ActionEntry.withdraw ⟨5, 12, 1⟩ 0x202).bytes = [0, 15, 4, 0, 0, 0, 0, 0, 0, 2, 2, 0, 161, 128, 1] ∧
    (⟨2, 9, .rides 7 9402⟩ : Grant).bytes = [2, 3, 0, 9, 1, 0, 0, 7, 36, 186] := by decide

/-- Tables 11-1 and 11-4 and R187, written out: the frame of an action parcel of one WITHDRAW under sequence 9; and the payload of
a reply parcel of one OK, under the source and sequence of its control parcel. -/
theorem test_frames_leave_as_the_tables_give :
    ({ ready with actions := ⟨[.withdraw ⟨5, 12, 1⟩ 0x202], [], 9⟩ } : State).deviceFrame =
      some ⟨0xFFFFFFFFFFFF, 0x02565A000001, 0x88B5,
        [0, 23, 2, 1, 0, 0, 0, 0, 9, 1, 0, 15, 4, 0, 0, 0, 0, 0, 0, 2, 2, 0, 161, 128, 1] ++ List.replicate 21 0⟩ ∧
    ({ ready with
        cp := ⟨.up, [⟨⟨.control, 7, 9, 1⟩, [entry 13 []]⟩], some .reply⟩
        control := ⟨.offering [⟨13, .ok, .none⟩], TableWindow.reset, 0⟩ } : State).clearingFrame.map TxFrame.payload =
      some ([0, 12, 4, 1, 0, 0, 7, 0, 9, 1, 0, 4, 13, 0] ++ List.replicate 32 0) := by decide

theorem test_reply_event_and_summary_bytes :
    (⟨1, .okClamped, .opened 5 12⟩ : ReplyEntry).bytes = [0, 7, 1, 1, 0, 5, 12] ∧
    (⟨5, 12, 1, 812400000, .collected 1500⟩ : CaseEvent).bytes =
      [0, 23, 2, 4, 0, 5, 12, 0, 0, 0, 1, 48, 108, 61, 128, 0, 0, 5, 220, 0, 0, 0, 0] ∧
    (⟨3, true, some 31⟩ : LogSummary).bytes = [0, 6, 1, 3, 1, 31] ∧
    (⟨0, false, none⟩ : LogSummary).bytes = [0, 6, 1, 0, 0, 255] := by decide

/-! ### Witnesses: states and operands that meet the hypotheses of each statement together -/

/-- The control parcel the helper puts under execution, and what it holds. -/
theorem witness_ControlParcelIsAnsweredEntryByEntry :
    (State.reset.control.phase = .idle ∧ State.reset.cp.queue = []) ∧
    (asking ready 9 []).control.phase = .executing [] none ∧
    (∃ p, (asking ready 9 []).cp.queue.head? = some p ∧ ([] : List ReplyEntry).length < p.entries.length) ∧
    (∃ p rest, { asking ready 9 [] with control := ready.control }.cp.queue = p :: rest) :=
  ⟨⟨rfl, rfl⟩, rfl, ⟨_, rfl, by decide⟩, _, _, rfl⟩

theorem witness_EveryCommandEndsInANextState :
    commandCode .seek = some 8 ∧ (∀ entry, (asking ready 9 []).nextEntry = some entry → entryCode entry ≠ 8) ∧
      ready.nextEntry = none ∧ (asking ready 20 []).nextEntry = some [0, 4, 20, 0] ∧ entryCode [0, 4, 20, 0] = 20 :=
  ⟨rfl, by intro e h; obtain rfl := Option.some.inj h; decide, rfl, by decide, by decide⟩

theorem witness_InitializationEndsAndReadyStays :
    State.reset.init = .initializing ∧ ready.init = .ready ∧ ready.time.clock = .set ∧
      exec .noticeBuild ready = .next ready ∧ Instr.noticeBuild ≠ .hardReset :=
  ⟨rfl, rfl, rfl, rfl, by decide⟩

theorem witness_EntryChecksComeFirst :
    ((asking ready 0 []).nextEntry = some [0, 4, 0, 0] ∧ (asking ready 21 []).nextEntry = some [0, 4, 21, 0]) ∧
    (commandCode .setTime = some 15 ∧ (asking State.reset 15 []).nextEntry = some [0, 4, 15, 0] ∧
      (asking State.reset 15 []).init = .initializing) ∧
    argumentBytes .setTime = some 4 ∧ (asking ready 15 [1]).takes 15 [1] ∧ ([1] : List Byte).length ≠ 4 :=
  ⟨by decide, by decide, rfl, asking_takes _ _ _ rfl, by decide⟩

theorem witness_EntryChecksComeFirstValues :
    (asking ready 14 [2]).takes 14 [2] ∧ (asking ready 17 [0, 2]).takes 17 [0, 2] ∧ (asking ready 18 [32]).takes 18 [32] ∧
    (asking ready 19 [32]).takes 19 [32] ∧ (asking ready 10 [4]).takes 10 [4] ∧
    (asking ready 1 (openBytes.set 14 64)).takes 1 (openBytes.set 14 64) ∧ ((openBytes.set 14 64).getD 14 0).toNat = 64 :=
  ⟨asking_takes _ _ _ rfl, asking_takes _ _ _ rfl, asking_takes _ _ _ rfl, asking_takes _ _ _ rfl, asking_takes _ _ _ rfl,
    asking_takes _ _ _ rfl, by decide⟩

theorem witness_DeviceParcelIsBufferedOrDropped :
    let s : State := { ready with dp := ⟨.up, List.replicate 8 [], false, 65535⟩ }
    s.init = .ready ∧ s.dp.link = .up ∧ 8 ≤ s.dp.buffer.length ∧ s.dp.dropRun = false ∧ 9 ≤ uploadPayload.length ∧
      uploadPayload.length ≤ 9000 ∧ ready.dp.buffer.length < 8 ∧ State.reset.init = .initializing := by decide

theorem witness_ClearingParcelIsQueuedOrLogged :
    checkParcel controlFrame.payload = .ok ⟨⟨.control, 7, 9, 1⟩, [[0, 4, 9, 0]]⟩ ∧ controlFrame.checkOk = true ∧
      controlFrame.payload.length = 46 ∧ checkParcel [] = .error .length ∧
      checkParcel uploadPayload = .ok ⟨⟨.upload, 7, 9, 1⟩, [raw 0x101 1 119 812389000 0 (-120) 1940 0 0]⟩ := by decide

/-- R34: one payload for each check, each the frame of section 11 with one byte changed at the boundary of what passes, and the first
check that fails where two do. -/
theorem test_header_checks_in_their_order :
    let p := controlFrame.payload
    [p.take 9, p.set 1 7, p.set 1 45, p.set 2 6, (p.set 2 6).set 3 2, p.set 3 2, p.set 9 0, p.set 9 9, p.set 9 2, p.set 11 3,
        uploadPayload.set 1 57].map (fun q => match checkParcel q with | .error c => some c | .ok _ => none) =
      [.length, .length, .length, .kind, .kind, .version, .countRange, .countRange, .countAgreement, .countAgreement,
        .length].map some := by decide

theorem witness_OutputIsGrantedAndSent :
    ready.cp.link = .down ∧ ready.cp.sending = none ∧
      ({ ready with cp := ⟨.up, [], some .reply⟩ } : State).cp.sending = some .reply := by decide

/-- A parcel of two records, the second without a card. -/
def malformedPayload : List Byte :=
  [0, 104, 1, 1, 0, 0, 7, 0, 9, 2] ++ raw 0x101 1 119 812389000 0 (-120) 1940 0 0 ++ raw 0 1 120 812389000 0 0 1940 0 0

theorem witness_IntakeTakesTheHeadParcel :
    let s : State := { ready with dp := ⟨.up, [malformedPayload], false, 0⟩ }
    s.dp.buffer = malformedPayload :: [] ∧
      checkParcel malformedPayload = .ok ⟨⟨.upload, 7, 9, 2⟩,
        [raw 0x101 1 119 812389000 0 (-120) 1940 0 0] ++ raw 0 1 120 812389000 0 0 1940 0 0 :: []⟩ ∧
      s.intake.used + 2 ≤ 512 ∧ (usageRecord (raw 0x101 1 119 812389000 0 (-120) 1940 0 0)).malformed = false ∧
      (usageRecord (raw 0 1 120 812389000 0 0 1940 0 0)).malformed = true := by decide

theorem witness_ParcelConditionsOfTheHead :
    let p : IntakeParcel := ⟨⟨.upload, 7, 9, 2⟩, [⟨[], 0, none⟩, ⟨[], 0, none⟩], .inDisposition⟩
    let s : State := { ready with intake := ⟨[p], true, true⟩ }
    s.intake.queue = p :: [] ∧ p.condition = .inDisposition ∧ p.records = [] ++ ⟨[], 0, none⟩ :: [⟨[], 0, none⟩] ∧
      p.records = [⟨[], 0, none⟩] ++ ⟨[], 0, none⟩ :: [] := by decide

theorem witness_InterceptOff : (disposing ready false []).intake.effective = false := rfl

theorem witness_RecordOfNoCaseOrUnderInterceptOff :
    let bytes := raw 0x303 5 1 812399000 12 0 0 0 10584065
    let s := disposing ready true bytes
    s.disposesNext ⟨⟨.upload, 7, 9, 1⟩, [⟨bytes, 812400000, none⟩], .inDisposition⟩ [] ⟨bytes, 812400000, none⟩ ∧
      s.intake.effective = true ∧ s.lookup (usageRecord bytes).card = none ∧
      (usageRecord bytes).kind = some .actionApplied ∧ (usageRecord bytes).ref = some ⟨5, 12, 1⟩ ∧
      (s.caseAt 5).state = .free ∧ ∀ i : Fin 32, s.ranges[i].valid = false :=
  ⟨⟨rfl, rfl, rfl⟩, rfl, by decide, by decide, by decide, by decide, by decide⟩

theorem witness_RangeBlocked :
    let s : State := { ready with ranges := ready.ranges.set 31 ⟨true, 0x0B770000000000, 0xFFFFFF00000000, 0, 0, false⟩ }
    s.ranges[(31 : Fin 32)].valid = true ∧
      (0x0B770012345678 : CardId) &&& s.ranges[(31 : Fin 32)].mask =
        s.ranges[(31 : Fin 32)].base &&& s.ranges[(31 : Fin 32)].mask := by decide

theorem witness_CaseRecordThatCountsNothing :
    let bytes := raw 0x202 5 1 812399000 12 0 0 0 10584065
    let old := raw 0x101 1 119 812389999 0 0 0 0 0
    (let s := disposing (withRecord (record .collecting)) true bytes;
      s.lookup (usageRecord bytes).card = some ⟨(usageRecord bytes).card, 5, .new⟩ ∧
        (usageRecord bytes).kind = some .actionApplied ∧ (usageRecord bytes).ref = some ⟨5, 12, 1⟩ ∧
        (usageRecord bytes).mask = some 0 ∧ (s.caseAt 5).generation < 1 ∧ (s.caseAt 5).outstanding = none) ∧
    (let s := disposing (withRecord (record .closed)) true old;
      s.lookup (usageRecord old).card = some ⟨(usageRecord old).card, 5, .old⟩ ∧ (s.caseAt 5).state = .closed ∧
        (usageRecord old).deviceTime < (s.caseAt 5).blockInstant ∧ (usageRecord old).deviceTime ≤ 812400000 + 600) := by
  decide

theorem witness_OldCardRecordOfALiveCaseIsAttached :
    let bytes := raw 0x101 1 119 812389000 0 (-120) 1940 0 0
    let s := disposing (withRecord (record .collecting)) true bytes
    s.lookup (usageRecord bytes).card = some ⟨(usageRecord bytes).card, 5, .old⟩ ∧ s.intake.effective = true ∧
      (usageRecord bytes).kind = some .purseUse ∧ (s.caseAt 5).state = .collecting := by decide

/-- A case that keeps one arrival, 119, and has seen 120 without keeping it. -/
def evidenced : CaseRecord := { record .collecting with arrivals := [arrival 119 .pre (-120) 1940], coverage := 3 }

theorem witness_RecordAlreadyAccountedFor :
    let r := (withRecord evidenced).caseAt 5
    r.lockCsn = none ∧ (arrival 118 .pre 0 0).csn ≤ r.baselineCsn ∧ r.baselineCsn < 119 ∧
      r.arrivals.find? (fun x => x.csn == 119) = some (arrival 119 .pre (-120) 1940) ∧
      firstDifference (arrival 119 .pre (-120) 1940) (arrival 119 .pre (-120) 1940) = none ∧
      firstDifference (arrival 119 .pre (-120) 1940) (arrival 119 .pre (-121) 1940) = some .amount ∧
      (∀ x ∈ r.arrivals, x.csn ≠ 120) ∧ r.coverage.getLsbD (120 - r.baselineCsn - 1) = true := by decide

/-- R62: copies that differ in device and amount log the device, which comes first. -/
theorem test_first_difference_is_logged :
    firstDifference (arrival 119 .pre (-120) 1940) { arrival 119 .pre (-121) 1940 with device := 78 } = some .device := by decide

theorem withRecord_tableOk (r : CaseRecord) (h : r ≠ CaseRecord.reset) (hf : r.state ≠ .free) : (withRecord r).tableOk :=
  ⟨⟨List.pairwise_singleton _ _, by simp [withRecord, h]⟩, by simp [withRecord], by simp [withRecord, hf]⟩

theorem witness_NewEvidenceFindsRoomOrNot :
    let s := withRecord evidenced
    let r := s.caseAt 5
    s.tableOk ∧ r.state ≠ .free ∧ r.lockCsn = none ∧ r.baselineCsn < 374 ∧ (∀ x ∈ r.arrivals, x.csn ≠ 374) ∧
      seen r.coverage r.baselineCsn 374 = false ∧ s.settle.fifo = [] ∧ r.arrivals.length < 32 ∧ 0 < s.poolFree ∧
      (let full : State := { s with poolFree := 0 };
        victimOf (full.caseAt 5).arrivals (arrival 121 .pre 0 0) = some (arrival 119 .pre (-120) 1940) ∧
        victimOf [] (arrival 121 .pre 0 0) = none ∧ protectedIn [arrival 121 .pre 0 0] (arrival 121 .pre 0 0) = true ∧
        victimOf [arrival 121 .pre 0 0] (arrival 119 .pre 0 0) = none ∧
        protectedIn [arrival 119 .pre 0 0, arrival 121 .pre 0 0] (arrival 119 .pre 0 0) = false) :=
  ⟨withRecord_tableOk _ (by decide) (by decide), by decide, by decide, by decide, by decide, by decide, by decide,
    by decide, by decide, by decide⟩

/-- New evidence above a lock CSN, and the block application itself, meet the hypotheses as any record does. -/
theorem witness_NewEvidenceUnderALock :
    let r := { evidenced with flags := { CaseFlags.none with cardLocked := true }, lockCsn := some 130 }
    let s := withRecord r
    s.tableOk ∧ r.baselineCsn < 131 ∧ (∀ x ∈ r.arrivals, x.csn ≠ 131) ∧ seen r.coverage r.baselineCsn 131 = false ∧
      r.lockCsn = some 130 ∧ s.settle.fifo = [] :=
  ⟨withRecord_tableOk _ (by decide) (by decide), by decide, by decide, by decide, rfl, rfl⟩

theorem witness_ProtectionDiscardAndCoverage :
    example47.arrivals.Pairwise (fun a b => a.csn ≠ b.csn) ∧ arrival 121 .pre 0 2060 ∈ example47.arrivals ∧
      victimOf example47.arrivals (arrival 122 .pre 0 0) = some (arrival 119 .pre 0 2500) := by decide

theorem witness_LockOfTheOldCard :
    let r := (withRecord evidenced).caseAt 5
    let l := (withRecord { evidenced with flags := { CaseFlags.none with cardLocked := true }, lockCsn := some 130 }).caseAt 5
    r.flags.cardLocked = false ∧ r.lockCsn = none ∧ r.state ≠ .free ∧ r.baselineCsn < 130 ∧
      (∀ x ∈ r.arrivals, x.csn ≠ 130) ∧ seen r.coverage r.baselineCsn 130 = false ∧
      l.flags.cardLocked = true ∧ l.lockCsn = some 130 := by decide

/-- The issued case of the collection tests: generation 1 outstanding with a credit of 1,540. -/
def issued : CaseRecord :=
  { record .issued with
    generation := 1, outstanding := some ⟨1, 1540, []⟩, result := some ⟨1840, .confirmed, 1540, 0, 0⟩ }

theorem withRecord_casesOk (r : CaseRecord) (h : r.lifeOk) : (withRecord r).casesOk := by
  intro e he
  simp only [withRecord, List.mem_singleton] at he
  subst he
  exact h

theorem issued_lifeOk : issued.lifeOk where
  free := by decide
  deadline := by intro d h; cases h
  outstanding := by
    intro o h
    obtain rfl : (⟨1, 1540, []⟩ : Outstanding) = o := Option.some.inj h
    decide
  owed := by decide
  generation := by decide
  collecting := by decide
  lock := by decide
  applied := by decide
  unpaid := by decide
  overpaid := by decide
  pruned := by decide
  target := by
    intro res h
    obtain rfl : (⟨1840, .confirmed, 1540, 0, 0⟩ : Result) = res := Option.some.inj h
    decide

/-- R64, R66: a PRE record is kept and seen. R64, R65, R72: the block application of an ISSUED case locks the card, counts as
evidence, and asks for a RECOMPUTE. -/
theorem test_old_card_records_are_evidence :
    (let t := after .recordDisposition
        (disposing (withRecord (record .collecting)) true (raw 0x101 1 119 812389000 0 (-120) 1940 0 0));
      headMarks t = [some .oldPre] ∧ (t.caseAt 5).arrivals.map Arrival.csn = [119] ∧ (t.caseAt 5).coverage = 1 ∧
        t.poolFree = 16383) ∧
    let t := after .recordDisposition (disposing (withRecord issued) true (raw 0x101 5 121 812390001 12 0 1940 0
      (⟨5, 12, 0⟩ : Ref).value))
    headMarks t = [some .oldPost] ∧ (t.caseAt 5).lockCsn = some 121 ∧ (t.caseAt 5).flags.cardLocked = true ∧
      (t.caseAt 5).coverage = 4 ∧ (t.caseAt 5).changeCount = 1 ∧ t.settle.fifo = [⟨5, .recompute⟩] := by decide

/-- The record of the outstanding generation, and of an earlier one; and what the case is once it is counted. The stale record meets
an action that differs from what is then desired, one that equals it, and, in LAPSED, none. -/
theorem witness_CollectionsAreCounted :
    let bytes := raw 0x202 5 1 812399000 12 1500 1500 0 10584065
    let s := disposing (withRecord issued) true bytes
    (s.tableOk ∧ s.casesOk ∧ (usageRecord bytes).kind = some .actionApplied ∧
      (usageRecord bytes).ref = some ⟨5, (s.caseAt 5).inst, 1⟩ ∧ (usageRecord bytes).mask = some 0 ∧
      s.lookup (usageRecord bytes).card = some ⟨(usageRecord bytes).card, 5, .new⟩ ∧
      (s.caseAt 5).outstanding = some ⟨1, 1540, []⟩) ∧
    (let counted := issued.collect ⟨1, 1540, []⟩ 1500 0;
      counted = { issued with
        applied := 1500, unpaid := 40, outstanding := none, grantStatus := counted.grantStatus
        flags := { issued.flags with underApplied := true } } ∧
      ∀ slot : PassSlot, counted.grantStatus.get slot = issued.grantStatus.get slot) ∧
    (∀ r ∈ [{ issued with generation := 2, outstanding := some ⟨2, 1540, []⟩ },
        { issued with generation := 2, outstanding := some ⟨2, 40, []⟩ }, { issued with state := .lapsed, outstanding := none }],
      1 ≤ r.generation ∧ (∀ o ∈ r.outstanding, o.generation ≠ 1) ∧
        ({ r with applied := 1500 } : CaseRecord).desiredCredit = 40) :=
  ⟨⟨withRecord_tableOk _ (by decide) (by decide), withRecord_casesOk _ issued_lifeOk, by decide, by decide, by decide,
    by decide, by decide⟩, by decide, by decide⟩

theorem witness_OpenCaseOpensTheLowestFreeRecord :
    let s := asking policed 1 openBytes
    s.tableOk ∧ s.takes 1 openBytes ∧ readOpenCase openBytes = some openArgs ∧ s.time.clock = .set ∧
      (s.activeRow openArgs.operator).valid = true ∧ openArgs.inRange ∧ s.lookup openArgs.oldCard = none ∧
      s.lookup openArgs.newCard = none ∧ s.rangeBlocked openArgs.newCard = false ∧ (s.caseAt 0).state = .free ∧
      s.actions.depth < 256 :=
  ⟨⟨reset_tableWf, by decide, by decide⟩, asking_takes _ _ _ rfl, by decide, by decide, by decide,
    ⟨by decide, by decide, by decide, by decide, by decide, by simp [openArgs]⟩, by decide, by decide, by decide, by decide,
    by decide⟩

/-- A part whose lowest records all stand. -/
def standing (n : Nat) : State := { policed with cases := (List.range n).map (fun c => (c, record .closed)) }

theorem standing_stands (n c : Nat) (h : c < n) : ((standing n).caseAt c).state ≠ .free := by
  have e : (standing n).caseAt c = record .closed :=
    tableGet_of_mem (List.Pairwise.map _ (fun _ _ h => h) List.pairwise_lt_range) (List.mem_map.mpr ⟨c, List.mem_range.mpr h, rfl⟩)
  rw [e]
  decide

/-- One state for each refusal of OPEN_CASE, in their order; the arguments of BAD_ARGUMENT and SAME_CARD differ in one card. -/
theorem witness_OpenCaseIsRefusedInOrder :
    let s := asking policed 1 openBytes
    (s.takes 1 openBytes ∧ readOpenCase openBytes = some openArgs ∧ openArgs.inRange) ∧
    (({ ready with time := ⟨.unset, 0⟩ } : State).time.clock = .unset ∧
      (ready.activeRow openArgs.operator).valid = false ∧ (s.activeRow openArgs.operator).valid = true) ∧
    (readOpenCase (beBytes 7 0 ++ openBytes.drop 7) = some { openArgs with oldCard := 0 } ∧
      readOpenCase (beBytes 7 0x202 ++ openBytes.drop 7) = some { openArgs with oldCard := 0x202 }) ∧
    (∃ e ∈ (withRecord (record .closed)).index, e.card = openArgs.oldCard ∨ e.card = openArgs.newCard) ∧
    (∀ e ∈ s.index, e.card ≠ openArgs.oldCard ∧ e.card ≠ openArgs.newCard) ∧
    ({ s with ranges := s.ranges.set 0 ⟨true, 0x200, 0xFFFFFFFFFFFF00, 0, 0, false⟩ } : State).rangeBlocked openArgs.newCard
      = true ∧
    (∀ d, d < 2048 → ((standing 2048).caseAt d).state ≠ .free) ∧ (s.caseAt 2047).state = .free ∧
    256 ≤ ({ s with actions := ⟨[], List.replicate 256 (.withdraw ⟨5, 12, 1⟩ 2), 0⟩ } : State).actions.depth :=
  ⟨⟨asking_takes _ _ _ rfl, by decide, by decide, by decide, by decide, by decide, by decide, by simp [openArgs]⟩,
    by decide, by decide +kernel, ⟨⟨0x101, 5, .old⟩, by decide, by decide⟩, by decide, by decide, standing_stands 2048, by decide,
    by decide +kernel⟩

theorem witness_WrongNameIsNoSuchCase :
    (asking (withRecord (record .held)) 2 (beBytes 2 5 ++ (11 : Byte) :: [])).takes 2 (beBytes 2 5 ++ (11 : Byte) :: []) ∧
      ((withRecord (record .held)).caseAt 5).inst ≠ 11 ∧
      (asking ready 7 (beBytes 2 2048 ++ (0 : Byte) :: [0])).takes 7 (beBytes 2 2048 ++ (0 : Byte) :: [0]) :=
  ⟨asking_takes _ _ _ rfl, by decide, asking_takes _ _ _ rfl⟩

/-- A command of the helper names case 5 as it stands. -/
theorem asking_takesFor (r : CaseRecord) (code : Byte) (extra : List Byte) (h : r.state ≠ .free) :
    (asking (withRecord r) code (beBytes 2 5 ++ r.inst :: extra)).takesFor code 5 extra :=
  ⟨by decide, h, asking_takes _ _ _ rfl⟩

theorem witness_CaseCommands :
    (asking (withRecord (record .collecting)) 2 (beBytes 2 5 ++ (12 : Byte) :: [])).takesFor 2 5 [] ∧
    (asking (withRecord (record .cancelled)) 3 (beBytes 2 5 ++ (12 : Byte) :: [])).takesFor 3 5 [] ∧
    (asking (withRecord (record .held)) 4 (beBytes 2 5 ++ (12 : Byte) :: (intBytes (-50000) ++ [1]))).takesFor 4 5
      (intBytes (-50000) ++ [1]) ∧
    (asking (withRecord (record .lapsed)) 5 (beBytes 2 5 ++ (12 : Byte) :: [])).takesFor 5 5 [] ∧
    (asking (withRecord (record .closed)) 6 (beBytes 2 5 ++ (12 : Byte) :: [])).takesFor 6 5 [] ∧
    (asking (withRecord (record .closed)) 7 (beBytes 2 5 ++ (12 : Byte) :: [31])).takesFor 7 5 [31] :=
  ⟨asking_takesFor (record .collecting) _ _ (by decide), asking_takesFor (record .cancelled) _ _ (by decide),
    asking_takesFor (record .held) _ _ (by decide), asking_takesFor (record .lapsed) _ _ (by decide),
    asking_takesFor (record .closed) _ _ (by decide), asking_takesFor (record .closed) _ _ (by decide)⟩

/-- CANCEL_CASE meets a RESTORE that is sent, one that is untaken with nothing owed, and one that is owed. -/
theorem witness_CancelCaseEndsTheCase :
    (withRecord issued).tableOk ∧
      (asking (withRecord issued) 2 (beBytes 2 5 ++ (12 : Byte) :: [])).takesFor 2 5 [] ∧
      issued.state = .issued ∧ issued.applied = 0 ∧ (∀ slot : PassSlot, issued.grantStatus.get slot ≠ .applied) ∧
      issued.outstanding = some ⟨1, 1540, []⟩ ∧ issued.owed = ⟨[], false⟩ ∧
      (ActionEntry.restore ⟨5, 12, 1⟩ 0x202 1540 []).isRestoreOf ⟨5, 12, 1⟩ = true :=
  ⟨withRecord_tableOk _ (by decide) (by decide), asking_takesFor issued _ _ (by decide), rfl, rfl, by decide, rfl, rfl, by decide⟩

theorem blank_lifeOk (st : CaseState) (h : st ≠ .free) : (record st).lifeOk where
  free := fun k => absurd k h
  deadline := by intro d k; cases k
  outstanding := by intro o k; cases k
  owed := by intro k; cases k
  generation := by simp [record, CaseRecord.freeWith]
  collecting := fun _ => rfl
  lock := rfl
  applied := by simp [record, CaseRecord.freeWith]
  unpaid := by simp [record, CaseRecord.freeWith]
  overpaid := by simp [record, CaseRecord.freeWith]
  pruned := by simp [record, CaseRecord.freeWith]
  target := by intro r k; cases k

theorem witness_ReissueReconcilesALapsedCase :
    (withRecord (record .lapsed)).tableOk ∧ (withRecord (record .lapsed)).casesOk ∧
      ((withRecord (record .lapsed)).caseAt 5).state = .lapsed :=
  ⟨withRecord_tableOk _ (by decide) (by decide), withRecord_casesOk _ (blank_lifeOk _ (by decide)), by decide⟩

/-- R24, R123: with room for one entry the WITHDRAW of a sent RESTORE joins the tail and the UNBLOCK is owed. -/
theorem test_cancel_places_withdraw_before_unblock :
    let s : State := { withRecord issued with actions := ⟨List.replicate 16 (.withdraw ⟨6, 1, 1⟩ 2), List.replicate 239 (.withdraw ⟨6, 1, 1⟩ 2), 0⟩ }
    let t := after .cancelCase (asking s 2 [0, 5, 12])
    t.actions.untaken.drop 239 = [.withdraw ⟨5, 12, 1⟩ 0x202] ∧ (t.caseAt 5).owed = ⟨[], true⟩ := by decide +kernel

theorem witness_RestoreIsWithdrawnByWhereItStands :
    (withRecord issued).tableOk ∧ ((withRecord issued).caseAt 5).outstanding = some ⟨1, 1540, []⟩ ∧
      ∃ t freed, (t, freed) = (withRecord issued).withdraw 5 :=
  ⟨withRecord_tableOk _ (by decide) (by decide), by decide, _, _, rfl⟩

theorem witness_RestoreIsWithdrawnAscending :
    ({ issued with owed := ⟨[1, 3], false⟩ } : CaseRecord).owed.withdraws.Pairwise (· < ·) := by decide

theorem witness_CaseReadsCarryTheRecord :
    (asking (withRecord evidenced) 7 (beBytes 2 5 ++ (12 : Byte) :: [31])).takesFor 7 5 [31] ∧
      (asking (withRecord evidenced) 7 (beBytes 2 5 ++ (12 : Byte) :: [32])).takesFor 7 5 [32] ∧
      evidenced.arrivals.Pairwise (fun a b => a.csn ≠ b.csn) :=
  ⟨asking_takesFor evidenced _ _ (by decide), asking_takesFor evidenced _ _ (by decide), by decide⟩

/-- R74: of section 4.7's list the anchor is 121 and p is 124. -/
theorem test_arrivals_carry_their_roles :
    (lastReply (after .readArrivals (asking (withRecord { record .held with arrivals := example47.arrivals }) 7 [0, 5, 12, 2]))).map
      ReplyEntry.result = some (.arrivals 4 0 0 2
        [(arrival 121 .pre 0 2060, ⟨true, [], false⟩), (arrival 124 .post (-250) 1590, ⟨false, [], true⟩)]) := by decide +kernel

theorem witness_RequestMeetsTheWaitingOne :
    let s : State := { withRecord (record .collecting) with settle := ⟨[⟨5, .early⟩], none⟩ }
    s.settle.fifo.find? (fun w => w.caseNo == 5) = some ⟨5, .early⟩ ∧ SettleMode.early.applies (s.caseAt 5) = true ∧
      (∀ w ∈ s.settle.fifo, w.caseNo ≠ 6) := by decide

/-- An operation of case 5 that read its evidence under an invalid or a valid row. -/
def operation (r : CaseRecord) (mode : SettleMode) (valid : Bool) : Operation :=
  ⟨5, r.inst, mode, r.changeCount, r.evidence, some { OperatorRow.reset with valid := valid }⟩

/-- A part with such an operation in flight. -/
def inFlight (r : CaseRecord) (mode : SettleMode) (valid : Bool) : State :=
  { withRecord r with settle := ⟨[], some (operation r mode valid)⟩ }

theorem witness_OperationsStartAndAreDiscarded :
    let s : State := { withRecord (record .collecting) with settle := ⟨[⟨5, .final⟩], none⟩ }
    (s.settle.fifo = ⟨5, .final⟩ :: [] ∧ s.settle.inFlight = none ∧ s.policy.switchPending = false) ∧
    (let d := inFlight (record .issued) .final true;
      d.settle.inFlight.isSome = true ∧ d.policy.switchPending = false ∧
        SettleMode.final.applies (d.caseAt 5) = false) := by decide

theorem witness_FirstResultIsWritten :
    (∀ mode ∈ ([.final, .forced 200 true, .forced (-50000) false] : List SettleMode),
      mode.applies (record .collecting) = true ∧ (operation (record .collecting) mode true).rowInvalid = false ∧
        (record .collecting).writtenBy (operation (record .collecting) mode true)
          ((record .collecting).settledBy (operation (record .collecting) mode true))) ∧
    (withRecord (record .collecting)).tableOk ∧ (withRecord (record .collecting)).casesOk ∧
    ((record .collecting).flags.held || (operation (record .collecting) .final true).evidence.mismatch) = false :=
  ⟨by unfold CaseRecord.writtenBy; decide, withRecord_tableOk _ (by decide) (by decide),
    withRecord_casesOk _ (blank_lifeOk _ (by decide)), by decide⟩

/-- R94, R110: a FORCED result of basis 200 under a fee of 0, with and without the pass the evidence grants. -/
theorem test_forced_result :
    let e : Evidence := { example47 with arrivals := [], baselinePasses := [⟨0, ⟨9, .count, 9390, 9402, 7⟩⟩] }
    let op (noPasses : Bool) : Operation := ⟨5, 12, .forced 200 noPasses, 0, e, some OperatorRow.reset⟩
    (op true).result = ⟨200, .forced, 200, 0, 0⟩ ∧ (op true).grants = [] ∧ (op false).grants = [⟨0, 9, .rides 7 9402⟩] := by
  decide +kernel

theorem witness_CompletionWithoutAResult :
    let s := inFlight (record .collecting) .final false
    s.tableOk ∧ ∀ op, s.settle.inFlight = some op → op.mode = .final ∧ op.rowInvalid = true ∧
      op.mode.applies (s.caseAt 5) = true ∧ (s.caseAt 5).changeCount = op.changeCount :=
  ⟨withRecord_tableOk _ (by decide) (by decide), by intro op h; obtain rfl := Option.some.inj h; decide⟩

/-- What the reconcile step of a RECOMPUTE meets: nothing outstanding in ISSUED, LAPSED and COLLECTED; an action that equals what
is desired; and one that differs, sent already or still untaken with no case owing. T falls from 1,840 to the baseline's 0. -/
theorem witness_RecomputeWritesAResult :
    (∀ r ∈ [{ issued with outstanding := none }, { issued with state := .lapsed, outstanding := none },
        { issued with state := .collected, outstanding := none }, issued, { issued with outstanding := some ⟨1, 0, []⟩ }],
      SettleMode.recompute.applies r = true ∧ r.state ∈ [.issued, .lapsed, .collected] ∧ r.flags.forced = false ∧
        r.writtenBy (operation r .recompute true) (r.settledBy (operation r .recompute true)) ∧
        (operation r .recompute true).result.target ≠ r.target) ∧
    (withRecord issued).tableOk ∧ (withRecord issued).casesOk ∧
    (issued.settledBy (operation issued .recompute true)).desiredCredit = 0 ∧ issued.owed = ⟨[], false⟩ ∧
    (((withRecord issued).setCase 5 (issued.settledBy (operation issued .recompute true))).withdraw 5).2 = false ∧
    (({ withRecord issued with actions := ⟨[], [.restore ⟨5, 12, 1⟩ 0x202 1540 []], 0⟩ } : State).withdraw 5).2 = true :=
  ⟨by unfold CaseRecord.writtenBy; decide, withRecord_tableOk _ (by decide) (by decide), withRecord_casesOk _ issued_lifeOk,
    by decide, by decide, by decide, by decide⟩

/-- R99, R127: in ISSUED, T falls to 0 while a sent RESTORE of 1,540 is outstanding: ADJUSTED, a WITHDRAW, and COLLECTED. -/
theorem test_recompute_withdraws_a_restore :
    let t := after .settlementCompletion (inFlight issued .recompute true)
    t.actions.untaken = [.withdraw ⟨5, 12, 1⟩ 0x202] ∧ (t.caseAt 5).state = .collected ∧
      t.notices.untaken.map CaseEvent.detail = [.adjusted (-1540), .collected 0] := by decide +kernel

theorem witness_EvidenceGivesTheBasis :
    example47.arrivals.Pairwise (fun a b => a.csn < b.csn) ∧ (∀ a ∈ example47.arrivals, example47.baselineCsn < a.csn) ∧
      arrival 121 .pre 0 2060 ∈ example47.arrivals ∧ (arrival 124 .post (-250) 1590).cls ≠ .pre := by decide

/-- A COUNT pass of the baseline and a PERIOD pass of an arrival, at the boundary of their last days. -/
theorem witness_SlotGrantIsBuilt :
    let a : Arrival := { arrival 121 .pre 0 2060 with slot := some 1, passAfter := some ⟨9, .period, 9402, 9402, 0⟩ }
    let e : Evidence := { example47 with
      arrivals := [arrival 119 .pre 0 2500, a, arrival 124 .post (-250) 1590]
      baselinePasses := [⟨0, ⟨9, .count, 9390, 9402, 7⟩⟩] }
    (e.arrivals.Pairwise (fun a b => a.csn < b.csn) ∧ ∀ a ∈ e.arrivals, e.baselineCsn < a.csn) ∧
    ((∀ a ∈ e.arrivals, a.cls = .pre → a.slot = some 0 → a.passAfter = none) ∧
      e.baselinePass 0 = some ⟨9, .count, 9390, 9402, 7⟩) ∧
    (a ∈ e.arrivals ∧ a.cls = .pre ∧ a.slot = some 1 ∧ a.passAfter = some ⟨9, .period, 9402, 9402, 0⟩ ∧
      ∀ b ∈ e.arrivals, b.cls = .pre → b.slot = some 1 → b.passAfter.isSome = true → b.csn ≤ a.csn) ∧
    ((e.blockInstant : Int) - ((e.timing.map Timing.dayOffset).getD 0)) / 86400 = 9402 ∧
    (e.baselinePass 3 = none ∧ ∀ a ∈ e.arrivals, a.slot ≠ some 3) := by decide

/-- R100, R102: an empty slot, days out of order, and 1,001 rides give no grant; 1,000 rides do. -/
theorem test_unusable_sources_give_no_grant :
    [⟨0, .count, 9390, 9402, 7⟩, ⟨9, .period, 9403, 9402, 0⟩, ⟨9, .count, 9390, 9402, 1001⟩, ⟨9, .count, 9390, 9402, 1000⟩].map
        (fun p : PassState => (({ example47 with arrivals := [], baselinePasses := [⟨0, p⟩] } : Evidence).slotGrant
          ⟨0, 50000, .holder, 0⟩ 0).1) =
      [none, none, none, some ⟨0, 9, .rides 1000 9402⟩] := by decide

theorem witness_PartTimeIsSetAndAdvances :
    (asking ready 15 (beBytes 4 8640000)).takes 15 (beBytes 4 8640000) ∧
      (asking ready 15 (beBytes 4 8639999)).takes 15 (beBytes 4 8639999) ∧ ready.time.now < 4294967295 ∧
      State.reset.time.clock = .unset :=
  ⟨asking_takes _ _ _ rfl, asking_takes _ _ _ rfl, by decide, rfl⟩

/-- A case whose deadline part time has reached, at the boundary, and which no lower-numbered one precedes. -/
theorem withRecord_due (r : CaseRecord) (k : DeadlineKind) (hr : r ≠ CaseRecord.reset) (hf : r.state ≠ .free)
    (hl : r.lifeOk) (hd : r.deadline = some ⟨k, 812400000⟩) :
    let s := withRecord r
    s.tableOk ∧ s.casesOk ∧ (s.caseAt 5).deadline = some ⟨k, 812400000⟩ ∧ 812400000 ≤ s.time.now ∧
      ∀ j, j < 5 → ∀ x, (s.caseAt j).deadline = some x → s.time.now < x.due := by
  refine ⟨withRecord_tableOk r hr hf, withRecord_casesOk r hl, hd, Nat.le_refl _, fun j hj x hx => ?_⟩
  have h : (withRecord r).caseAt j = CaseRecord.reset := by
    simp only [State.caseAt, withRecord, tableGet, show ¬(5 = j) by omega, if_false]
  rw [h] at hx
  cases hx

theorem blank_due (st : CaseState) (k : DeadlineKind) (h : st ≠ .free) (hk : k.belongsTo st) :
    ({ record st with deadline := some ⟨k, 812400000⟩ } : CaseRecord).lifeOk :=
  { blank_lifeOk st h with
    free := fun e => absurd e h
    deadline := by
      intro d e
      obtain rfl := Option.some.inj e
      exact ⟨hk, by show 812400000 ≤ 4294967295; decide⟩ }

/-- The issued case at its collection deadline. -/
def lapsing : CaseRecord := { issued with deadline := some ⟨.collection, 812400000⟩ }

theorem lapsing_lifeOk : lapsing.lifeOk :=
  { issued_lifeOk with
    free := by decide
    deadline := by
      intro d e
      obtain rfl := Option.some.inj e
      exact ⟨rfl, by decide⟩ }

/-- A window end, a tail end, and a collection deadline: with nothing outstanding; with a sent RESTORE, whose withdrawal frees no
room; and with an untaken one, whose room no case waits for. -/
theorem witness_DeadlinesExpire :
    (({ record .collecting with deadline := some ⟨.windowEnd, 812400000⟩ } : CaseRecord).lifeOk ∧
      ({ record .collected with deadline := some ⟨.tailEnd, 812400000⟩ } : CaseRecord).lifeOk ∧
      ({ record .issued with deadline := some ⟨.collection, 812400000⟩ } : CaseRecord).lifeOk) ∧
    (withRecord lapsing).casesOk ∧ ((withRecord lapsing).caseAt 5).outstanding = some ⟨1, 1540, []⟩ ∧
    (((withRecord lapsing).setCase 5 { lapsing with deadline := none }).withdraw 5).2 = false ∧
    (let s : State := { withRecord lapsing with actions := ⟨[], [.restore ⟨5, 12, 1⟩ 0x202 1540 []], 0⟩ }
      let w := (s.setCase 5 { lapsing with deadline := none }).withdraw 5
      w.2 = true ∧ ∀ e ∈ w.1.cases, e.2.owes = false) :=
  ⟨⟨blank_due _ _ (by decide) rfl, blank_due _ _ (by decide) rfl, blank_due _ _ (by decide) rfl⟩,
    (withRecord_due lapsing .collection (by decide) (by decide) lapsing_lifeOk rfl).2.1, by decide, by decide, by decide⟩

/-- A case that owes a RESTORE, and what it owes besides. -/
def owing (withdraws : List Nat) : CaseRecord :=
  { issued with generation := 3, outstanding := some ⟨3, 1540, []⟩, flags := { CaseFlags.none with issueOwed := true }
                owed := ⟨withdraws, false⟩ }

theorem owing_lifeOk (ws : List Nat) : (owing ws).lifeOk where
  free := fun h => by cases h
  deadline := by intro d h; cases h
  outstanding := by
    intro o h
    obtain rfl : (⟨3, 1540, []⟩ : Outstanding) = o := Option.some.inj h
    exact ⟨rfl, rfl, by decide⟩
  owed := fun _ => rfl
  generation := by show 3 ≤ 8191; decide
  collecting := fun h => by cases h
  lock := rfl
  applied := issued_lifeOk.applied
  unpaid := issued_lifeOk.unpaid
  overpaid := issued_lifeOk.overpaid
  pruned := issued_lifeOk.pruned
  target := issued_lifeOk.target

/-- A CLOSED case that owes two WITHDRAWs and its UNBLOCK, with room for all; two cases that each owe an UNBLOCK; and an ISSUED one
that owes its RESTORE, with none and with some WITHDRAWs before it, below and at the depth of 192. -/
theorem witness_ActionParcelsAndOwedEntries :
    ((withRecord { record .closed with owed := ⟨[1, 3], true⟩ }).tableOk ∧
      (withRecord { record .closed with owed := ⟨[1, 3], true⟩ }).casesOk) ∧
    (∀ e ∈ [(4, { record .cancelled with owed := ⟨[], true⟩ }), (5, { record .closed with owed := ⟨[], true⟩ })],
      e.2.owes = true ∧ e.2.owed = ⟨[], true⟩ ∧ (e.2.state = .closed ∨ e.2.state = .cancelled) ∧ e.1 < 2048) ∧
    (∀ ws, (withRecord (owing ws)).casesOk ∧ (owing ws).state = .issued ∧ (owing ws).flags.issueOwed = true ∧
      (owing ws).desiredCredit = 1540 ∧ (owing ws).desiredGrants = [] ∧ (owing ws).collectionDeadline = none) ∧
    (withRecord (owing [])).tableOk ∧ (withRecord (owing [1])).tableOk ∧
    ([.withdraw ⟨5, 12, 1⟩ 2] : List ActionEntry) ≠ [] ∧
    (List.replicate 191 (ActionEntry.withdraw ⟨6, 1, 1⟩ 2)).length + [1].length = 192 := by
  refine ⟨⟨withRecord_tableOk _ (by decide) (by decide), withRecord_casesOk _ ?_⟩, by decide, fun ws =>
    ⟨withRecord_casesOk _ (owing_lifeOk ws), rfl, rfl, by show max ((1540 : Int) - 0 - 0) 0 = 1540; decide, rfl, rfl⟩,
    withRecord_tableOk _ (by decide) (by decide), withRecord_tableOk _ (by decide) (by decide), by decide, by decide +kernel⟩
  exact { blank_lifeOk .closed (by decide) with free := by decide, owed := by decide }

/-- R122: an owed WITHDRAW precedes the owed RESTORE of its case, whose collection deadline then starts. -/
theorem test_owed_restore_is_served :
    let s : State := { withRecord (owing [1]) with actions := ⟨[.withdraw ⟨6, 1, 1⟩ 2], [], 0⟩ }
    let t := after .actionParcelSent s
    t.actions.untaken = [.withdraw ⟨5, 12, 1⟩ 0x202, .restore ⟨5, 12, 3⟩ 0x202 1540 []] ∧
      (t.caseAt 5).deadline = some ⟨.collection, 814992000⟩ ∧ (t.caseAt 5).flags.issueOwed = false := by decide +kernel

/-- R122, R124: of two cases that owe an UNBLOCK the lower case number comes first; the sequence wraps. -/
theorem test_owing_cases_in_ascending_order :
    let s : State := { ready with
      cases := [(4, { record .cancelled with owed := ⟨[], true⟩ }), (5, { record .closed with owed := ⟨[], true⟩ })]
      actions := ⟨[.withdraw ⟨6, 1, 1⟩ 2], [], 65535⟩ }
    (after .actionParcelSent s).actions = ⟨[], [.unblock ⟨4, 12, 0⟩ 0x101, .unblock ⟨5, 12, 0⟩ 0x101], 0⟩ := by decide +kernel

theorem witness_WindowCommands :
    (asking ready 8 (beBytes 1 (Cursor.blockRanges 31).table ++ beBytes 2 (Cursor.blockRanges 31).row)).takes 8
      (beBytes 1 (Cursor.blockRanges 31).table ++ beBytes 2 (Cursor.blockRanges 31).row) ∧
    (asking ready 8 (beBytes 1 3 ++ beBytes 2 2048)).takes 8 (beBytes 1 3 ++ beBytes 2 2048) ∧
    (asking ready 9 []).takes 9 [] ∧ (asking ready 11 []).takes 11 [] ∧ (asking ready 12 []).takes 12 [] ∧
    (asking ready 13 []).takes 13 [] ∧ (asking ready 14 [if true then 1 else 0]).takes 14 [if true then 1 else 0] ∧
    (asking ready 17 [1, 0]).takes 17 [1, 0] ∧ (asking ready 18 [BitVec.ofNat 8 31]).takes 18 [BitVec.ofNat 8 31] ∧
    (asking ready 19 [255]).takes 19 [255] ∧ (asking ready 20 []).takes 20 [] :=
  ⟨asking_takes _ _ _ rfl, asking_takes _ _ _ rfl, asking_takes _ _ _ rfl, asking_takes _ _ _ rfl, asking_takes _ _ _ rfl,
    asking_takes _ _ _ rfl, asking_takes _ _ _ rfl, asking_takes _ _ _ rfl, asking_takes _ _ _ rfl, asking_takes _ _ _ rfl,
    asking_takes _ _ _ rfl⟩

/-- The PUT of a range row at the highest operator, and of a policy row at its upper bounds. -/
theorem witness_PutWritesTheCursorRow :
    let range := [2, 1] ++ beBytes 7 0x0B770000000000 ++ beBytes 7 0xFFFFFF00000000 ++ [63, 255]
    let row := [0, 1] ++ beBytes 2 10000 ++ intBytes 500000 ++ [1] ++ beBytes 2 336 ++ [90, 60] ++ beBytes 4 86399 ++ [30, 60, 1]
    (asking ready 10 range).takes 10 range ∧
      readPut range = some (.blockRanges ⟨1, 0x0B770000000000, 0xFFFFFF00000000, 63, 255⟩) ∧
      readPut row = some (.policyStandby ⟨1, 10000, 500000, 1, 336, 90, 60, 86399, 30, 60, 1⟩) ∧
      (asking ready 10 range).control.window.cursor = .policyStandby 0 :=
  ⟨asking_takes _ _ _ rfl, by decide, by decide, rfl⟩

theorem witness_SwitchPolicyFlipsBetweenOperations :
    let s : State := { inFlight (record .collecting) .final true with
      policy := { PolicyBanks.reset with switchPending := true }
      control := ⟨.executing [] (some .switchPolicy), TableWindow.reset, 0⟩ }
    s.settle.inFlight.isSome = true ∧ s.policy.switchPending = true ∧ s.control.phase = .executing [] (some .switchPolicy) := by
  decide

theorem witness_InterceptChangesAtParcelBoundaries :
    let s := disposing (asking ready 14 [if true then 1 else 0]) false []
    s.control.phase = .executing [] none ∧ s.intake.effective ≠ true ∧ s.time.clock = .set := by decide

theorem witness_StatusIsReportedAsItStands :
    (asking (withRecord (record .held)) 16 [if true then 1 else 0]).nextEntry = some [0, 5, 16, 0, 1] ∧
      (withRecord (record .held)).tableOk ∧ (asking State.reset 16 [if false then 1 else 0]).nextEntry = some [0, 5, 16, 0, 0] :=
  ⟨by decide, withRecord_tableOk _ (by decide) (by decide), by decide⟩

theorem witness_NoticesAreMaskedAndBuilt :
    let n : NoticeUnit := { ready.notices with untaken := [⟨5, 12, 0, 0, .closed 0⟩], caseMasked := false }
    n.parcel = none ∧ (!n.caseMasked && !n.untaken.isEmpty) = true ∧ (!n.logMasked && n.logPending) = false := by decide

theorem witness_ExceptionLogIsWrittenReadAndCleared :
    ready.log.overflow = false ∧ ready.log.records[ready.log.writeIndex] = none ∧
      (let l : ExceptionLog := { ready.log with overflow := true }; l.overflow = true) := by decide

theorem witness_FormatsReadBack :
    ([[0, 4, 9, 0]] : List (List Byte)).length = (1 : Byte).toNat ∧ fieldNat [0, 4, 9, 0] 0 2 = 4 ∧
      (parcelOf ⟨.control, 7, 9, 1⟩ [[0, 4, 9, 0]]).length = 12 ∧ (⟨2047, 255, 8191⟩ : Ref).value = 4294967295 := by decide

/-- A part whose one case is sound, its list and its index with it: what every step keeps is met by a state with work in it. -/
theorem witness_KeptInAPartWithACase :
    let s := withRecord evidenced
    s.tableOk ∧ (∀ e ∈ s.cases, e.2.listOk) ∧ s.slotsInUse + s.poolFree = 16384 ∧
      s.index.Pairwise (fun a b => a.card.toNat < b.card.toNat) ∧ s.queuesOk ∧ s.countersOk ∧ s.timeOk ∧
      step s = .next s := by
  refine ⟨withRecord_tableOk _ (by decide) (by decide), ?_, by decide, by decide, by unfold State.queuesOk; decide,
    by unfold State.countersOk; decide, by unfold State.timeOk; decide, rfl⟩
  intro e he
  simp only [withRecord, List.mem_singleton] at he
  subst he
  unfold CaseRecord.listOk
  decide

/-- A part whose one case stands under both its cards. -/
theorem witness_CardIndexKept : (withRecord evidenced).indexOk := by
  refine ⟨withRecord_tableOk _ (by decide) (by decide), by decide, by decide, fun c role h => ?_⟩
  have hm := State.listed_of_ne_free _ c h
  obtain ⟨rfl, -⟩ := Prod.ext_iff.mp (List.mem_singleton.mp hm)
  cases role <;> decide

/-- A part that executes the one command of a sound control parcel, disposes of a record, and has a forwarded parcel being sent. -/
theorem witness_ControlPathKept :
    ({ disposing (asking ready 9 []) true [] with
        cp := ⟨.up, [⟨⟨.control, 7, 9, 1⟩, [entry 9 []]⟩], some .forward⟩, forward := [⟨⟨.upload, 7, 9, 1⟩, []⟩] }
      : State).controlOk where
  parcels := by
    intro p h
    obtain rfl := List.mem_singleton.mp h
    exact ⟨rfl, rfl, by decide, by decide⟩
  executing := by
    intro replies held h
    obtain ⟨rfl, rfl⟩ : ([] : List ReplyEntry) = replies ∧ none = held := by
      injection h with h1 h2; exact ⟨h1, h2⟩
    exact ⟨_, rfl, by decide⟩
  offering := by intro replies h; cases h
  intercept := by intro replies h; cases h
  waiting := by intro p h; cases h
  disposing := by decide
  switch := ⟨fun h => absurd h (by decide), by rintro ⟨replies, h⟩; cases h⟩
  pending := by decide
  initializing := by decide
  reply := by decide
  notice := by decide
  forward := by decide

theorem witness_OutstandingActionsCarryWhatIsDesired :
    (withRecord issued).tableOk ∧ (withRecord issued).casesOk ∧
      ((withRecord issued).caseAt 5).outstanding = some ⟨1, 1540, []⟩ ∧
      (1540 : Int) = ((withRecord issued).caseAt 5).desiredCredit ∧
      ([] : List Grant) = ((withRecord issued).caseAt 5).desiredGrants :=
  ⟨withRecord_tableOk _ (by decide) (by decide), withRecord_casesOk _ issued_lifeOk, by decide, by decide, by decide⟩

theorem witness_CaseLivesAreLawful :
    (withRecord issued).tableOk ∧ (withRecord issued).casesOk ∧ (withRecord issued).actionsAgree ∧
      exec .noticeBuild (withRecord issued) = .next (withRecord issued) ∧
      ((withRecord issued).caseAt 5).state ≠ .free ∧ ((withRecord issued).caseAt 6).state = .free := by
  refine ⟨withRecord_tableOk _ (by decide) (by decide), withRecord_casesOk _ issued_lifeOk, ⟨fun c o h => ?_, fun c slot _ => ?_⟩,
    rfl, by decide, by decide⟩ <;> by_cases hc : c = 5
  · subst hc
    obtain rfl : (⟨1, 1540, []⟩ : Outstanding) = o := Option.some.inj h
    decide
  · rw [show (withRecord issued).caseAt c = CaseRecord.reset from by
      simp only [State.caseAt, withRecord, tableGet, show ¬(5 = c) by omega, if_false]] at h
    cases h
  · subst hc
    intro g hg
    cases hg
  · rw [show (withRecord issued).caseAt c = CaseRecord.reset from by
      simp only [State.caseAt, withRecord, tableGet, show ¬(5 = c) by omega, if_false]]
    intro g hg
    cases hg

end Sys2Proof.Machine.Tests
end

section
/-! PROOFS. Purse settlement (04): the highest and the lowest arrival of a list, the counts of unseen CSNs as cardinalities, the
evidence's stage 1 by whether p is present, and stages 2 to 4. -/

namespace Sys2Proof.Machine

/-! ### The highest and the lowest arrival -/

@[simp] theorem highest_eq_none_iff {l : List Arrival} : highest l = none ↔ l = [] := by
  cases l with
  | nil => simp [highest]
  | cons a l =>
    simp only [highest, reduceCtorEq, iff_false]
    split
    · simp
    · split <;> simp

@[simp] theorem lowest_eq_none_iff {l : List Arrival} : lowest l = none ↔ l = [] := by
  cases l with
  | nil => simp [lowest]
  | cons a l =>
    simp only [lowest, reduceCtorEq, iff_false]
    split
    · simp
    · split <;> simp

theorem csn_le_of_highest {l : List Arrival} {a : Arrival} (h : highest l = some a) : ∀ b ∈ l, b.csn ≤ a.csn := by
  induction l generalizing a with
  | nil => simp
  | cons x l ih =>
    simp only [highest] at h
    split at h
    · next hn =>
      obtain rfl := highest_eq_none_iff.mp hn
      obtain rfl := Option.some.inj h
      simp
    · next y hy =>
      have hl := ih hy
      split at h <;> obtain rfl := Option.some.inj h
      · next hlt => exact List.forall_mem_cons.mpr ⟨le_rfl, fun b hb => (hl b hb).trans hlt.le⟩
      · next hge => exact List.forall_mem_cons.mpr ⟨not_lt.mp hge, hl⟩

theorem csn_ge_of_lowest {l : List Arrival} {a : Arrival} (h : lowest l = some a) : ∀ b ∈ l, a.csn ≤ b.csn := by
  induction l generalizing a with
  | nil => simp
  | cons x l ih =>
    simp only [lowest] at h
    split at h
    · next hn =>
      obtain rfl := lowest_eq_none_iff.mp hn
      obtain rfl := Option.some.inj h
      simp
    · next y hy =>
      have hl := ih hy
      split at h <;> obtain rfl := Option.some.inj h
      · next hlt => exact List.forall_mem_cons.mpr ⟨le_rfl, fun b hb => hlt.le.trans (hl b hb)⟩
      · next hge => exact List.forall_mem_cons.mpr ⟨not_lt.mp hge, hl⟩

/-- In a list that holds no CSN twice the CSN names the arrival. -/
theorem eq_of_csn_eq {l : List Arrival} {a b : Arrival} (hl : l.Pairwise (fun a b => a.csn ≠ b.csn))
    (ha : a ∈ l) (hb : b ∈ l) (h : a.csn = b.csn) : a = b :=
  List.inj_on_of_nodup_map (List.pairwise_map.mpr hl) ha hb h

theorem highest_eq_some {l : List Arrival} {a : Arrival} (hl : l.Pairwise (fun a b => a.csn ≠ b.csn)) (ha : a ∈ l)
    (hmax : ∀ b ∈ l, b.csn ≤ a.csn) : highest l = some a := by
  cases h : highest l with
  | none => simp [highest_eq_none_iff.mp h] at ha
  | some b =>
    have hb := highest_mem h
    exact congrArg some (eq_of_csn_eq hl hb ha (le_antisymm (hmax b hb) (csn_le_of_highest h a ha)))

theorem lowest_eq_some {l : List Arrival} {a : Arrival} (hl : l.Pairwise (fun a b => a.csn ≠ b.csn)) (ha : a ∈ l)
    (hmin : ∀ b ∈ l, a.csn ≤ b.csn) : lowest l = some a := by
  cases h : lowest l with
  | none => simp [lowest_eq_none_iff.mp h] at ha
  | some b =>
    have hb := lowest_mem h
    exact congrArg some (eq_of_csn_eq hl hb ha (le_antisymm (csn_ge_of_lowest h a ha) (hmin b hb)))

/-! ### The anchor and p (R81, R82) -/

theorem anchorOf_eq_some {l : List Arrival} {a : Arrival} (hl : l.Pairwise (fun a b => a.csn ≠ b.csn)) (ha : a ∈ l)
    (hpre : a.cls = .pre) (hmax : ∀ b ∈ l, b.cls = .pre → b.csn ≤ a.csn) : anchorOf l = some a :=
  highest_eq_some (hl.filter _) (by simp [ha, Arrival.isPre, hpre]) fun b hb => by
    obtain ⟨hb, hbpre⟩ := List.mem_filter.mp hb
    exact hmax b hb (of_decide_eq_true hbpre)

theorem anchorOf_eq_none {l : List Arrival} (h : ∀ a ∈ l, a.cls ≠ .pre) : anchorOf l = none :=
  highest_eq_none_iff.mpr (List.filter_eq_nil_iff.mpr fun a ha => by simp [Arrival.isPre, h a ha])

theorem anchorOf_mem {l : List Arrival} {a : Arrival} (h : anchorOf l = some a) : a ∈ l :=
  List.mem_of_mem_filter (highest_mem h)

theorem firstAfter_eq_some {l : List Arrival} {p : Arrival} (hl : l.Pairwise (fun a b => a.csn ≠ b.csn)) (hp : p ∈ l)
    (hcls : p.cls ≠ .pre) (hmin : ∀ b ∈ l, b.cls ≠ .pre → p.csn ≤ b.csn) : firstAfter l = some p :=
  lowest_eq_some (hl.filter _) (by simp [hp, Arrival.isPre, hcls]) fun b hb => by
    obtain ⟨hb, hbcls⟩ := List.mem_filter.mp hb
    exact hmin b hb (by simpa [Arrival.isPre] using hbcls)

theorem firstAfter_eq_none {l : List Arrival} (h : ∀ p ∈ l, p.cls = .pre) : firstAfter l = none :=
  lowest_eq_none_iff.mpr (List.filter_eq_nil_iff.mpr fun p hp => by simp [Arrival.isPre, h p hp])

section

variable {e : Evidence}

theorem Evidence.anchor_of_some {a : Arrival} (h : anchorOf e.arrivals = some a) :
    e.anchorBalance = a.balanceAfter ∧ e.anchorCsn = a.csn := by
  simp [Evidence.anchorBalance, Evidence.anchorCsn, h]

theorem Evidence.anchor_of_none (h : anchorOf e.arrivals = none) :
    e.anchorBalance = e.baselineBalance ∧ e.anchorCsn = e.baselineCsn := by
  simp [Evidence.anchorBalance, Evidence.anchorCsn, h]

/-- With every arrival above the baseline (R59), so is the anchor or it is the baseline itself. -/
theorem Evidence.baselineCsn_le_anchorCsn (h : ∀ a ∈ e.arrivals, e.baselineCsn < a.csn) : e.baselineCsn ≤ e.anchorCsn := by
  cases ha : anchorOf e.arrivals with
  | none => exact (Evidence.anchor_of_none ha).2.ge
  | some a => exact (Evidence.anchor_of_some ha).2 ▸ (h a (anchorOf_mem ha)).le

end

/-! ### Counting unseen CSNs (R66, R83) -/

theorem seenCount_eq_count (coverage : BitVec 256) (baseline lo hi n : Nat) :
    seenCount coverage baseline lo hi n =
      Nat.count (fun k => lo < baseline + 1 + k ∧ baseline + 1 + k < hi ∧ coverage.getLsbD k = true) n := by
  induction n with
  | zero => simp [seenCount]
  | succ n ih => rw [seenCount, Nat.count_succ, ih, Nat.add_comm]

theorem seen_iff {coverage : BitVec 256} {baseline csn : Nat} : seen coverage baseline csn = true ↔
    (baseline < csn ∧ csn ≤ baseline + 256) ∧ coverage.getLsbD (csn - baseline - 1) = true := by
  simp only [seen, Bool.and_eq_true, decide_eq_true_eq]
  rfl

/-- Over the whole span the flags counted are those of the seen CSNs between the bounds: flag `k` is that of CSN
`baseline + 1 + k` (R66). -/
theorem seenCount_eq_card (coverage : BitVec 256) (baseline lo hi : Nat) :
    seenCount coverage baseline lo hi Config.coverageSpan =
      ((Finset.Ioo lo hi).filter (fun n => seen coverage baseline n = true)).card := by
  rw [seenCount_eq_count, Nat.count_eq_card_filter_range]
  refine Finset.card_nbij' (fun k => baseline + 1 + k) (fun n => n - baseline - 1) ?_ ?_ ?_ ?_
  · intro k hk
    simp only [Finset.coe_filter, Finset.mem_range, Set.mem_ofPred_eq, Config.coverageSpan] at hk
    obtain ⟨hspan, hlo, hhi, hflag⟩ := hk
    have hindex : baseline + 1 + k - baseline - 1 = k := by omega
    simp only [Finset.coe_filter, Finset.mem_Ioo, Set.mem_ofPred_eq, seen_iff, hindex]
    exact ⟨⟨hlo, hhi⟩, ⟨by omega, by omega⟩, hflag⟩
  · intro n hn
    simp only [Finset.coe_filter, Finset.mem_Ioo, Set.mem_ofPred_eq, seen_iff] at hn
    obtain ⟨⟨hlo, hhi⟩, ⟨habove, hspan⟩, hflag⟩ := hn
    simp only [Finset.coe_filter, Finset.mem_range, Set.mem_ofPred_eq, Config.coverageSpan]
    exact ⟨by omega, by omega, by omega, hflag⟩
  · intro k _
    show baseline + 1 + k - baseline - 1 = k
    omega
  · intro n hn
    simp only [Finset.coe_filter, Set.mem_ofPred_eq, seen_iff] at hn
    obtain ⟨_, ⟨habove, _⟩, _⟩ := hn
    show baseline + 1 + (n - baseline - 1) = n
    omega

/-- The model's difference of two counts is the number of CSNs between the bounds that are not seen. -/
theorem unseenCount_eq_card (coverage : BitVec 256) (baseline lo hi : Nat) :
    unseenCount coverage baseline lo hi =
      ((Finset.Ioo lo hi).filter (fun n => seen coverage baseline n = false)).card := by
  have hsplit := Finset.card_filter_add_card_filter_not (s := Finset.Ioo lo hi) (fun n => seen coverage baseline n = true)
  simp only [Bool.not_eq_true, Nat.card_Ioo] at hsplit
  rw [unseenCount, seenCount_eq_card]
  omega

/-! ### Stage 1 (R84 to R87) -/

section

variable {e : Evidence} {p : Arrival}

theorem Evidence.missing_eq_card :
    e.missing =
      ((Finset.Ioo e.baselineCsn e.upperCsn).filter (fun n => seen e.coverage e.baselineCsn n = false)).card :=
  unseenCount_eq_card ..

theorem Evidence.upperCsn_of_some (h : firstAfter e.arrivals = some p) : e.upperCsn = p.csn := by
  simp [Evidence.upperCsn, h]

theorem Evidence.upperCsn_of_none (h : firstAfter e.arrivals = none) : e.upperCsn = e.anchorCsn := by
  simp [Evidence.upperCsn, h]

/-- The purse gaps are the members of the missing set above the anchor CSN (R83). -/
theorem Evidence.purseGaps_of_some (h : firstAfter e.arrivals = some p) (hle : e.baselineCsn ≤ e.anchorCsn) :
    e.purseGaps = ((Finset.Ioo e.baselineCsn p.csn).filter
      (fun n => e.anchorCsn < n ∧ seen e.coverage e.baselineCsn n = false)).card := by
  have hgaps : e.purseGaps = unseenCount e.coverage e.baselineCsn e.anchorCsn p.csn := by
    simp [Evidence.purseGaps, h]
  rw [hgaps, unseenCount_eq_card]
  congr 1
  ext n
  simp only [Finset.mem_filter, Finset.mem_Ioo]
  constructor
  · rintro ⟨⟨hlo, hhi⟩, hseen⟩
    exact ⟨⟨hle.trans_lt hlo, hhi⟩, hlo, hseen⟩
  · rintro ⟨⟨_, hhi⟩, hlo, hseen⟩
    exact ⟨⟨hlo, hhi⟩, hseen⟩

/-- CONFIRMED (R85): p present and no purse gap. -/
theorem Evidence.stage1_confirmed (h : firstAfter e.arrivals = some p) (hg : e.purseGaps = 0) :
    e.status = .confirmed ∧ (∀ g, e.basis g = e.anchorBalance) ∧
      (e.mismatch = true ↔ p.balanceBefore ≠ e.anchorBalance) := by
  simp [Evidence.status, Evidence.basis, Evidence.mismatch, h, hg]

/-- GAP_RESOLVED (R86): p present and some purse gap. -/
theorem Evidence.stage1_gapResolved (h : firstAfter e.arrivals = some p) (hg : e.purseGaps ≠ 0) :
    e.status = .gapResolved ∧ e.mismatch = false ∧
      e.basis .holder = clampBalance (max e.anchorBalance p.balanceBefore) ∧
      e.basis .operator = clampBalance (min e.anchorBalance p.balanceBefore) := by
  simp [Evidence.status, Evidence.basis, Evidence.mismatch, h, hg]

/-- UNCONFIRMED (R87): no p. -/
theorem Evidence.stage1_unconfirmed (h : firstAfter e.arrivals = none) :
    e.purseGaps = 0 ∧ e.status = .unconfirmed ∧ e.mismatch = false ∧ ∀ g, e.basis g = e.anchorBalance := by
  simp [Evidence.purseGaps, Evidence.status, Evidence.basis, Evidence.mismatch, h]

end

/-- Settles O35: in an ascending list the arrival the statement describes is the one the model's search finds, so that each
clause is stage 1 with p present or absent. -/
theorem evidenceGivesTheBasis : Obligations.EvidenceGivesTheBasis := by
  intro e hasc habove
  have hl : e.arrivals.Pairwise (fun a b => a.csn ≠ b.csn) := hasc.imp Nat.ne_of_lt
  refine ⟨?anchor, ?noAnchor, ?first, ?noFirst⟩
  case anchor =>
    intro a ha hpre hmax
    exact Evidence.anchor_of_some (anchorOf_eq_some hl ha hpre hmax)
  case noAnchor =>
    intro hno
    exact Evidence.anchor_of_none (anchorOf_eq_none hno)
  case first =>
    intro p hp hcls hmin
    have hfirst := firstAfter_eq_some hl hp hcls hmin
    exact ⟨rfl, Evidence.upperCsn_of_some hfirst ▸ Evidence.missing_eq_card,
      Evidence.purseGaps_of_some hfirst (Evidence.baselineCsn_le_anchorCsn habove),
      Evidence.stage1_confirmed hfirst, Evidence.stage1_gapResolved hfirst⟩
  case noFirst =>
    intro hno
    have hfirst := firstAfter_eq_none hno
    exact ⟨Evidence.upperCsn_of_none hfirst ▸ Evidence.missing_eq_card, Evidence.stage1_unconfirmed hfirst⟩

/-! ### Stages 2 to 4 (R88 to R90) -/

section

variable {st : ResultStatus} {b : Int} {m : MoneyTerms} {waived : Bool}

/-- The floor (R89). -/
theorem purseResult_of_neg (hn : b - feeTaken m waived < 0) :
    purseResult st b m waived = ⟨b, st, 0, -(b - feeTaken m waived), 0⟩ := by
  simp only [purseResult, Result.mk.injEq, true_and]
  omega

/-- The clip (R90). -/
theorem purseResult_of_max_lt (hn : (m.purseMax : Int) < b - feeTaken m waived) :
    purseResult st b m waived = ⟨b, st, m.purseMax, 0, b - feeTaken m waived - m.purseMax⟩ := by
  simp only [purseResult, Result.mk.injEq, true_and]
  omega

/-- Neither floor nor clip. -/
theorem purseResult_of_within (hn : 0 ≤ b - feeTaken m waived) (hm : b - feeTaken m waived ≤ m.purseMax) :
    purseResult st b m waived = ⟨b, st, b - feeTaken m waived, 0, 0⟩ := by
  simp only [purseResult, Result.mk.injEq, true_and]
  omega

/-- Where the floor does not act the shortfall is 0, clipped or not. -/
theorem purseResult_shortfall_of_nonneg (hn : 0 ≤ b - feeTaken m waived) : (purseResult st b m waived).shortfall = 0 :=
  max_eq_right (neg_nonpos.mpr hn)

theorem purseResult_target_le_purseMax : (purseResult st b m waived).target ≤ m.purseMax :=
  min_le_right _ _

theorem feeTaken_nonneg : 0 ≤ feeTaken m waived := by
  unfold feeTaken
  split <;> omega

theorem feeTaken_le_fee : feeTaken m waived ≤ m.fee := by
  unfold feeTaken
  split <;> omega

/-- The ranges of Table 4-3. -/
theorem purseResult_ranges (hlo : -50000 ≤ b) (hhi : b ≤ 1000000) (hfee : m.fee ≤ 10000) (hmax : 100 ≤ m.purseMax) :
    -60000 ≤ b - feeTaken m waived ∧ b - feeTaken m waived ≤ 1000000 ∧
      0 ≤ (purseResult st b m waived).shortfall ∧ (purseResult st b m waived).shortfall ≤ 60000 ∧
      0 ≤ (purseResult st b m waived).excess ∧ (purseResult st b m waived).excess ≤ 999900 := by
  have hnonneg := feeTaken_nonneg (m := m) (waived := waived)
  have hle := feeTaken_le_fee (m := m) (waived := waived)
  simp only [purseResult]
  omega

end

/-- Settles O36: below zero, above the purse maximum and between them the result is one equation each; the ranges follow from
a fee taken of at most the captured fee. -/
theorem feeFloorAndClip : Obligations.FeeFloorAndClip := by
  intro st b m waived n res hn hres
  obtain rfl : n = b - feeTaken m waived := hn
  subst hres
  refine ⟨rfl, rfl, ?floor, ?noFloor, ⟨purseResult_target_nonneg .., purseResult_target_le_purseMax⟩, purseResult_ranges⟩
  case floor =>
    intro hneg
    simp [purseResult_of_neg hneg]
  case noFloor =>
    intro hpos
    refine ⟨purseResult_shortfall_of_nonneg hpos, fun hclip => ?_, fun hwithin => ?_⟩
    · simp [purseResult_of_max_lt hclip]
    · simp [purseResult_of_within hpos hwithin]

end Sys2Proof.Machine
end

section
/-! PROOFS. The operator policy banks (07): which commands leave both banks as they are, what the others put into their rows, and
that every row stays within the ranges of Table 7-1 (R142). -/

namespace Sys2Proof.Machine

/-! ### Events of cases leave the banks -/

theorem PartStep.policy {s t : State} (h : PartStep s t) : t.policy = s.policy := by rw [h.frame]

theorem CaseStep.policy {s t : State} (h : CaseStep s t) : t.policy = s.policy := h.part.policy

@[simp] theorem endEvent_policy (o : State × Bool) : (endEvent o).policy = o.1.policy :=
  (CaseStep.endEvent (.refl o.1)).policy

@[simp] theorem State.afterReached_policy (s before : State) : (s.afterReached before).policy = s.policy :=
  (PartStep.afterReached (.refl s) before).policy

@[simp] theorem State.withdraw_policy (s : State) (c : Nat) : (s.withdraw c).1.policy = s.policy :=
  (CaseStep.withdraw s c).policy

@[simp] theorem State.placeUnblock_policy (s : State) (c : Nat) : (s.placeUnblock c).policy = s.policy :=
  (CaseStep.placeUnblock s c).policy

@[simp] theorem State.reconcile_policy (s : State) (c : Nat) (b : Bool) : (s.reconcile c b).1.policy = s.policy :=
  (CaseStep.reconcile s c b).policy

@[simp] theorem State.serveOwed_policy (s : State) : s.serveOwed.policy = s.policy :=
  (CaseStep.serveOwed s).policy

@[simp] theorem State.dispose_policy (s : State) (raw : List Byte) (stamp : Nat) :
    (s.dispose raw stamp).1.1.policy = s.policy :=
  (PartStep.dispose s raw stamp).policy

@[simp] theorem State.complete_policy (s : State) (op : Operation) : (s.complete op).1.policy = s.policy :=
  (PartStep.complete s op).policy

/-! ### The ports and the intake leave the banks -/

@[simp] theorem State.dropLink_policy (s : State) (port : Port) : (s.dropLink port).policy = s.policy := by
  cases port <;> rfl

@[simp] theorem State.raiseLink_policy (s : State) (port : Port) : (s.raiseLink port).policy = s.policy := by
  cases port <;> rfl

@[simp] theorem State.deviceParcel_policy (s : State) (payload : List Byte) :
    (s.deviceParcel payload).policy = s.policy := by
  unfold State.deviceParcel
  split
  · rfl
  · split
    · rfl
    · unfold State.dropParcel
      dsimp only
      split <;> simp

@[simp] theorem State.controlParcel_policy (s : State) (p : Parcel) : (s.controlParcel p).policy = s.policy := by
  unfold State.controlParcel
  split <;> simp

@[simp] theorem State.clearingParcel_policy (s : State) (payload : List Byte) :
    (s.clearingParcel payload).policy = s.policy := by
  unfold State.clearingParcel
  split
  · simp
  · split <;> simp

@[simp] theorem State.sent_policy (s : State) (source : CpSource) : (s.sent source).policy = s.policy := by
  cases source <;> rfl

@[simp] theorem State.takeUpload_policy (s : State) (p : Parcel) : (s.takeUpload p).policy = s.policy := by
  unfold State.takeUpload State.logMalformed
  dsimp only
  split <;> simp

@[simp] theorem State.intakeTake_policy (s : State) (payload : List Byte) :
    (s.intakeTake payload).policy = s.policy := by
  unfold State.intakeTake
  dsimp only
  split
  · simp
  · split
    · split <;> simp
    · simp

@[simp] theorem State.markHead_policy (s : State) (m : Mark) : (s.markHead m).policy = s.policy := by
  unfold State.markHead State.boundary
  split
  · rfl
  · dsimp only
    split <;> simp

@[simp] theorem State.disposeHead_policy (s : State) (r : IntakeRecord) : (s.disposeHead r).policy = s.policy := by
  simp [State.disposeHead]

@[simp] theorem State.actionsSent_policy (s : State) : s.actionsSent.policy = s.policy := by
  simp [State.actionsSent]

/-! ### What the commands of a control parcel do to the banks -/

/-- What holds of the banks before a command entry is executed and after the command's own rule holds after the execution: the
checks of R165 and the reply entry leave the banks. -/
theorem State.execute_policy_keeps {α : Type} {P : PolicyBanks → Prop} {s : State} {code : Byte}
    {read : List Byte → Option α} {run : State → α → State × Response} (before : P s.policy)
    (rule : ∀ a, P (run s a).1.policy) : P (s.execute code read run).policy := by
  rcases s.execute_cases code read run with e | ⟨_, _, _, e⟩ | ⟨_, a, _, _, _, e⟩
  · rwa [e]
  · rwa [e, State.writeReply_policy]
  · rw [e, State.finish_policy]
    exact rule a

theorem State.execute_policy {α : Type} {s : State} {code : Byte} {read : List Byte → Option α}
    {run : State → α → State × Response} (rule : ∀ a, (run s a).1.policy = s.policy) :
    (s.execute code read run).policy = s.policy :=
  State.execute_policy_keeps (P := (· = s.policy)) rfl rule

theorem State.withCase_policy {s : State} {n : CaseName} {run : State → Nat → State × Response}
    (rule : ∀ c, (run s c).1.policy = s.policy) : (s.withCase n run).1.policy = s.policy := by
  rcases s.withCase_cases n run with ⟨_, e⟩ | ⟨_, e⟩ <;> rw [e]
  exact rule _

theorem runOpenCase_policy (s : State) (a : OpenArgs) : (runOpenCase s a).1.policy = s.policy := by
  unfold runOpenCase
  split
  · simp [State.openAt]
  · rfl
  · rfl

theorem cancelNamed_policy (s : State) (c : Nat) : (cancelNamed s c).1.policy = s.policy := by
  unfold cancelNamed State.cancelAt
  split <;> simp

theorem releaseNamed_policy (s : State) (c : Nat) : (releaseNamed s c).1.policy = s.policy := by
  unfold releaseNamed State.releaseAt
  dsimp only
  split
  · split <;> simp
  · rfl

theorem forceNamed_policy (basis : Int) (noPasses : Bool) (s : State) (c : Nat) :
    (forceNamed basis noPasses s c).1.policy = s.policy := by
  unfold forceNamed
  dsimp only
  split
  · split <;> simp
  · rfl

theorem reissueNamed_policy (s : State) (c : Nat) : (reissueNamed s c).1.policy = s.policy := by
  unfold reissueNamed State.reissueAt
  split <;> simp

theorem arrivalsNamed_policy (start : Nat) (s : State) (c : Nat) : (arrivalsNamed start s c).1.policy = s.policy := by
  unfold arrivalsNamed
  dsimp only
  split <;> rfl

theorem runSeek_policy (s : State) (target : Cursor) : (runSeek s target).1.policy = s.policy := by
  unfold runSeek
  split <;> rfl

theorem runPatchBegin_policy (s : State) (a : Unit) : (runPatchBegin s a).1.policy = s.policy := by
  unfold runPatchBegin
  split <;> rfl

theorem runPatchEnd_policy (s : State) (a : Unit) : (runPatchEnd s a).1.policy = s.policy := by
  unfold runPatchEnd
  split <;> rfl

theorem runIntercept_policy (s : State) (value : Bool) : (runIntercept s value).1.policy = s.policy := by
  unfold runIntercept
  split
  · rfl
  · split <;> rfl

theorem runSetTime_policy (s : State) (value : Nat) : (runSetTime s value).1.policy = s.policy := by
  unfold runSetTime
  split <;> rfl

theorem runReadStatus_policy (s : State) (clear : Bool) : (runReadStatus s clear).1.policy = s.policy := by
  cases clear <;> rfl

theorem runSoftReset_policy (s : State) (a : Unit) : (runSoftReset s a).1.policy = s.policy := by
  show s.withdrawNotice.policy = s.policy
  unfold State.withdrawNotice
  split <;> rfl

/-! ### The commands that leave the banks -/

/-- The commands that can write the Policy Banks block: PUT (R143), the two that flip (R147, R148) and the two resets (R166). -/
def Instr.touchesPolicy : Instr → Bool
  | .put | .switchPolicy | .settlementCompletion | .hardReset | .initializationEnd => true
  | _ => false

theorem policy_of_next {s t u : State} (h : (Host.Outcome.next u : Host.Outcome State Fault Refusal) = .next t)
    (hu : u.policy = s.policy) : t.policy = s.policy := by
  cases h
  exact hu

/-- Every other command leaves the banks, the selector and switch-pending as they are (R143, R148). -/
theorem exec_policy {c : Instr} {s t : State} (hc : Instr.touchesPolicy c = false) (h : exec c s = .next t) :
    t.policy = s.policy := by
  cases c with
  | put | switchPolicy | settlementCompletion | hardReset | initializationEnd => cases hc
  | linkDown port => exact policy_of_next h (s.dropLink_policy port)
  | linkUp port => exact policy_of_next h (s.raiseLink_policy port)
  | dpParcelArrival frame => exact policy_of_next h (by split <;> simp)
  | cpParcelArrival frame => exact policy_of_next h (by split <;> simp)
  | intakeTakeParcel => exact policy_of_next h (by split <;> simp)
  | dispositionStartParcel =>
    refine policy_of_next h ?_
    split
    · rfl
    · split <;> rfl
  | recordDisposition =>
    refine policy_of_next h ?_
    split
    · rfl
    · split
      · split <;> simp
      · rfl
  | forwardQueueEntry =>
    refine policy_of_next h ?_
    split
    · rfl
    · split <;> rfl
  | cpOutputGrant => exact policy_of_next h (by split <;> rfl)
  | cpSendComplete => exact policy_of_next h (by split <;> simp)
  | controlParcelStart => exact policy_of_next h (by split <;> rfl)
  | openCase => exact policy_of_next h (State.execute_policy (runOpenCase_policy s))
  | cancelCase => exact policy_of_next h (State.execute_policy fun _ => State.withCase_policy (cancelNamed_policy s))
  | releaseCase => exact policy_of_next h (State.execute_policy fun _ => State.withCase_policy (releaseNamed_policy s))
  | forceSettle => exact policy_of_next h (State.execute_policy fun _ => State.withCase_policy (forceNamed_policy _ _ s))
  | reissue => exact policy_of_next h (State.execute_policy fun _ => State.withCase_policy (reissueNamed_policy s))
  | readCase => exact policy_of_next h (State.execute_policy fun _ => State.withCase_policy fun _ => rfl)
  | readArrivals =>
    exact policy_of_next h (State.execute_policy fun _ => State.withCase_policy (arrivalsNamed_policy _ s))
  | seek => exact policy_of_next h (State.execute_policy (runSeek_policy s))
  | get => exact policy_of_next h (State.execute_policy fun _ => rfl)
  | patchBegin => exact policy_of_next h (State.execute_policy (runPatchBegin_policy s))
  | patchEnd => exact policy_of_next h (State.execute_policy (runPatchEnd_policy s))
  | intercept => exact policy_of_next h (State.execute_policy (runIntercept_policy s))
  | setTime => exact policy_of_next h (State.execute_policy (runSetTime_policy s))
  | readStatus => exact policy_of_next h (State.execute_policy (runReadStatus_policy s))
  | setNoticeMask => exact policy_of_next h (State.execute_policy fun _ => rfl)
  | readLog => exact policy_of_next h (State.execute_policy fun _ => rfl)
  | clearLog => exact policy_of_next h (State.execute_policy fun _ => rfl)
  | softReset => exact policy_of_next h (State.execute_policy (runSoftReset_policy s))
  | partTimeAdvance =>
    refine policy_of_next h ?_
    split
    · split <;> rfl
    · rfl
  | windowEndExpiry =>
    refine policy_of_next h ?_
    split
    · exact (PartStep.windowExpires s _ _).policy
    · rfl
  | collectionDeadlineExpiry =>
    refine policy_of_next h ?_
    split
    · exact (CaseStep.collectionExpires s _ _).part.afterReached s |>.policy
    · rfl
  | tailEndExpiry =>
    refine policy_of_next h ?_
    split
    · exact (CaseStep.tailExpires s _ _).policy
    · rfl
  | settleOperationStart =>
    refine policy_of_next h ?_
    unfold State.startOperation
    split
    · rfl
    · split <;> rfl
  | actionParcelStart => exact policy_of_next h (by split <;> rfl)
  | actionParcelSent => exact policy_of_next h (by split <;> simp)
  | noticeBuild => exact policy_of_next h (by split <;> rfl)
  | unknownCommand =>
    refine policy_of_next h ?_
    split
    · rfl
    · split <;> simp

/-! ### Rows in range -/

/-- Every row of both banks is in range, said of the Policy Banks block alone. -/
def PolicyBanks.inRange (p : PolicyBanks) : Prop :=
  (∀ op : Operator, p.bankA[op].inRange) ∧ ∀ op : Operator, p.bankB[op].inRange

theorem State.policyOk_iff (s : State) : s.policyOk ↔ s.policy.inRange := Iff.rfl

/-- A field after a PUT lies within its range, whether the value sent was placed or held (R144). -/
theorem heldField_mem_range {lo hi old new : Nat} (hold : lo ≤ old ∧ old ≤ hi) :
    lo ≤ heldField (!within lo new hi) old new ∧ heldField (!within lo new hi) old new ≤ hi := by
  cases hw : within lo new hi with
  | false => exact hold
  | true => simpa [heldField, within] using hw

/-- The purse maximum is sent as a signed number; one in range keeps its value as a natural number. -/
theorem heldField_purseMax_mem_range {old : Nat} {new : Int} (hold : 100 ≤ old ∧ old ≤ 500000) :
    100 ≤ heldField (!(decide (100 ≤ new) && decide (new ≤ 500000))) old new.toNat ∧
      heldField (!(decide (100 ≤ new) && decide (new ≤ 500000))) old new.toNat ≤ 500000 := by
  cases hw : decide (100 ≤ new) && decide (new ≤ 500000) with
  | false => exact hold
  | true =>
    simp only [Bool.and_eq_true, decide_eq_true_eq] at hw
    simp only [heldField, Bool.not_true, Bool.false_eq_true, if_false]
    omega

theorem OperatorRow.reset_inRange : OperatorRow.reset.inRange := by
  simp [OperatorRow.inRange, OperatorRow.reset]

/-- A PUT leaves a row that was in range in range, whatever values it carries (R144). -/
theorem OperatorRow.inRange.written {row : OperatorRow} (h : row.inRange) (v : PolicyValues) : (row.written v).inRange := by
  obtain ⟨fee, purseLo, purseHi, windowLo, windowHi, collectLo, collectHi, tail, offset, carry, backLo, backHi⟩ := h
  have purse := heldField_purseMax_mem_range (new := v.purseMax) ⟨purseLo, purseHi⟩
  have window := heldField_mem_range (new := v.windowHours) ⟨windowLo, windowHi⟩
  have collect := heldField_mem_range (new := v.collectionDays) ⟨collectLo, collectHi⟩
  have back := heldField_mem_range (new := v.maxBackdateDays) ⟨backLo, backHi⟩
  exact ⟨(heldField_mem_range ⟨Nat.zero_le _, fee⟩).2, purse.1, purse.2, window.1, window.2, collect.1, collect.2,
    (heldField_mem_range ⟨Nat.zero_le _, tail⟩).2, (heldField_mem_range ⟨Nat.zero_le _, offset⟩).2,
    (heldField_mem_range ⟨Nat.zero_le _, carry⟩).2, back.1, back.2⟩

/-- A bank with one row replaced holds rows in range where the old rows and the new one are. -/
theorem rows_set_inRange {rows : Vector OperatorRow 64} {row : OperatorRow} (h : ∀ op : Operator, rows[op].inRange)
    (hrow : row.inRange) (written op : Operator) : (rows.set written row)[op].inRange := by
  simp only [Fin.getElem_fin, Vector.getElem_set]
  split
  · exact hrow
  · exact h op

theorem PolicyBanks.reset_inRange : PolicyBanks.reset.inRange := by
  have hrow : ∀ op : Operator, (Vector.replicate 64 OperatorRow.reset)[op].inRange := fun op => by
    simpa using OperatorRow.reset_inRange
  exact ⟨hrow, hrow⟩

theorem State.policyOk.standbyRow {s : State} (h : s.policyOk) (op : Operator) : (s.standbyRow op).inRange := by
  unfold State.standbyRow PolicyBanks.standbyRows
  split
  · exact h.2 op
  · exact h.1 op

theorem State.policyOk.setStandbyRow {s : State} (h : s.policyOk) (op : Operator) {row : OperatorRow}
    (hrow : row.inRange) : (s.setStandbyRow op row).policyOk := by
  unfold State.setStandbyRow
  split
  · exact ⟨h.1, rows_set_inRange h.2 hrow op⟩
  · exact ⟨rows_set_inRange h.1 hrow op, h.2⟩

/-! ### The commands that write the banks keep them in range -/

theorem State.policyOk.runPut {s : State} (h : s.policyOk) (a : PutArgs) : (runPut s a).1.policyOk := by
  unfold Machine.runPut
  split
  case h_3 =>
    rw [State.policyOk_iff, State.advanceCursor_policy]
    exact h.setStandbyRow _ ((h.standbyRow _).written _)
  all_goals exact h

/-- A flip moves the selector over the rows as they stand (R148). -/
theorem State.policyOk.flip {s : State} (h : s.policyOk) : s.flip.policyOk := h

theorem State.policyOk.runSwitchPolicy {s : State} (h : s.policyOk) (a : Unit) : (runSwitchPolicy s a).1.policyOk := by
  unfold Machine.runSwitchPolicy
  split <;> exact h

theorem State.policyOk.flipIfPending {s : State} (h : s.policyOk) : s.flipIfPending.policyOk := by
  unfold State.flipIfPending
  split
  · rw [State.policyOk_iff, State.completeHeld_policy]
    exact h.flip
  · exact h

theorem State.policyOk.completeOperation {s : State} (h : s.policyOk) : s.completeOperation.policyOk := by
  unfold State.completeOperation
  split
  · exact h
  · refine State.policyOk.flipIfPending ?_
    simpa [State.policyOk_iff] using h

theorem State.policyOk.exec {c : Instr} {s t : State} (hs : s.policyOk) (h : exec c s = .next t) : t.policyOk := by
  cases hc : Instr.touchesPolicy c with
  | false => rwa [State.policyOk_iff, exec_policy hc h]
  | true =>
    cases c with
    | put => cases h; exact State.execute_policy_keeps (P := PolicyBanks.inRange) hs hs.runPut
    | switchPolicy => cases h; exact State.execute_policy_keeps (P := PolicyBanks.inRange) hs hs.runSwitchPolicy
    | settlementCompletion => cases h; exact hs.completeOperation
    | hardReset => cases h; exact PolicyBanks.reset_inRange
    | initializationEnd =>
      cases h
      rw [State.policyOk_iff]
      split
      · exact PolicyBanks.reset_inRange
      · exact hs
    | _ => cases hc

/-- Settles O52: the reset rows are in range, and a step idles or runs a command, which keeps every row in range. -/
theorem policyRowsStayInRange : Obligations.PolicyRowsStayInRange := by
  refine ⟨PolicyBanks.reset_inRange, fun s t hs h => ?_⟩
  unfold step at h
  split at h
  · cases h; exact hs
  · next c rest _ => exact State.policyOk.exec (s := { s with pending := rest }) hs h

end Sys2Proof.Machine
end

section
/-! PROOFS. In-band control (09): what the Control Unit does with a command entry it takes, by whether the layout check reads its
arguments (R165), and SEEK (R170). -/

namespace Sys2Proof.Machine

/-! ### A command entry that is taken -/

/-- A command whose arguments pass the layout check runs its own rule (R165). -/
theorem State.takes.execute_of_read {α : Type} {s : State} {code : Byte} {args : List Byte} {read : List Byte → Option α}
    {a : α} (h : s.takes code args) (hr : read args = some a) (run : State → α → State × Response) :
    s.execute code read run = (run s a).1.finish code (run s a).2 := by
  obtain ⟨hready, entry, hnext, hcode, hargs⟩ := h
  exact State.execute_runs run hready hnext hcode (hargs ▸ hr)

/-- A command whose arguments fail the layout check is refused BAD_ARGUMENT, and nothing else changes (R165). -/
theorem State.takes.execute_of_unread {α : Type} {s : State} {code : Byte} {args : List Byte}
    {read : List Byte → Option α} (h : s.takes code args) (hr : read args = none) (run : State → α → State × Response) :
    s.execute code read run = s.answered code .badArgument .none := by
  obtain ⟨hready, entry, hnext, hcode, hargs⟩ := h
  subst hargs
  unfold State.execute State.answered
  rw [hnext]
  simp [hcode, hready, hr]

/-! ### The cursor a SEEK names -/

/-- A byte-wide field at the front, read as a byte. -/
theorem toNat_getD_beBytes_one {n : Nat} (h : n < 256) (bs : List Byte) :
    ((beBytes 1 n ++ bs).getD 0 0).toNat = n := by
  simpa [beBytes] using h

/-- The layout check of SEEK reads a table and a row back as they were written (R191). -/
theorem readSeek_beBytes {table row : Nat} (ht : table < 256) (hr : row < 65536) :
    readSeek (beBytes 1 table ++ beBytes 2 row) = cursorOf table row := by
  have hrow : fieldNat (beBytes 1 table ++ beBytes 2 row) 1 2 = row := by
    simpa using fieldNat_between (beBytes 1 table) [] (length_beBytes 1 table).symm (w := 2) (n := row) hr
  rw [readSeek, if_pos (by simp), toNat_getD_beBytes_one ht, hrow]

theorem Cursor.table_lt (c : Cursor) : c.table < 4 := by
  cases c <;> simp [Cursor.table]

theorem Cursor.row_lt (c : Cursor) : c.row < 2048 := by
  cases c with
  | policyStandby r | policyActive r | blockRanges r | caseDirectory r => exact Nat.lt_of_lt_of_le r.isLt (by decide)

@[simp] theorem cursorOf_table_row (c : Cursor) : cursorOf c.table c.row = some c := by
  cases c with
  | policyStandby r | policyActive r | blockRanges r | caseDirectory r => simp [Cursor.table, Cursor.row, cursorOf]

/-- A table code that names no table, or a row above its table's last row, names no cursor (R168, R170). -/
theorem cursorOf_eq_none {table row : Nat}
    (h : 4 ≤ table ∨ ((table = 0 ∨ table = 1) ∧ 64 ≤ row) ∨ (table = 2 ∧ 32 ≤ row) ∨ (table = 3 ∧ 2048 ≤ row)) :
    cursorOf table row = none := by
  unfold cursorOf
  split
  case h_5 => rfl
  all_goals exact dif_neg (by omega)

/-! ### SEEK -/

theorem exec_seek (s : State) : exec .seek s = .next (s.execute 8 readSeek runSeek) := rfl

theorem runSeek_of_patching {s : State} (h : s.control.window.saved.isSome = true) (target : Cursor) :
    runSeek s target = (s, .reply .patchActive (.cursor s.control.window.cursor)) :=
  if_pos h

theorem runSeek_of_saved_none {s : State} (h : s.control.window.saved = none) (target : Cursor) :
    runSeek s target = (s.setWindow { s.control.window with cursor := target }, .reply .ok (.cursor target)) :=
  if_neg (by simp [State.patching, h])

/-- Settles O41: the layout check reads the cursor written, or none for a row outside its table; patch mode decides the rest. -/
theorem seekMovesTheCursor : Obligations.SeekMovesTheCursor := by
  refine ⟨fun s target htakes => ?_, fun s table row htakes hrow hout => ?_⟩
  · have hread : readSeek (beBytes 1 target.table ++ beBytes 2 target.row) = some target := by
      rw [readSeek_beBytes (by have := target.table_lt; omega) (by have := target.row_lt; omega), cursorOf_table_row]
    rw [exec_seek, htakes.execute_of_read hread]
    refine ⟨fun hpatch => ?_, fun hsaved => ?_⟩
    · rw [runSeek_of_patching hpatch]; rfl
    · rw [runSeek_of_saved_none hsaved]; rfl
  · have hread : readSeek (beBytes 1 table ++ beBytes 2 row) = none := by
      rw [readSeek_beBytes (by omega) hrow, cursorOf_eq_none (by omega)]
    rw [exec_seek, htakes.execute_of_unread hread]

end Sys2Proof.Machine
end

section
/-! PROOFS. What one command can do: the rule of each command entry with the answer it gives, and the inversion of `exec`, said once
for every proof about what all commands keep. -/

namespace Sys2Proof.Machine

/-! ### The rules of the command entries -/

/-- `RuleStep s c u a`: the own rule of command `c`, run in `s`, ends in `u` with answer `a`. -/
inductive RuleStep (s : State) : Instr → State → Response → Prop
  | stays (c : Instr) (status : Status) (result : ReplyResult) : RuleStep s c s (.reply status result)
  | opened {c : Nat} {a : OpenArgs} (status : Status) (result : ReplyResult) (accepted : s.openRefusal a = none)
      (free : s.lowestFree = some c) : RuleStep s .openCase ((s.openAt c a).afterReached s) (.reply status result)
  | cancelled {c : Nat} (status : Status) (live : (s.caseAt c).state ≠ .free) (taken : (s.caseAt c).cancellable = true) :
      RuleStep s .cancelCase (s.cancelAt c) (.reply status .none)
  | released {c : Nat} (status : Status) (ended : (s.caseAt c).state = .closed ∨ (s.caseAt c).state = .cancelled) :
      RuleStep s .releaseCase (s.releaseAt c) (.reply status .none)
  | forced {c : Nat} {basis : Int} {noPasses : Bool} (status : Status) :
      RuleStep s .forceSettle (s.placeRequest ⟨c, .forced basis noPasses⟩ false) (.reply status .none)
  | reissued {c : Nat} (status : Status) (lapsed : (s.caseAt c).state = .lapsed) :
      RuleStep s .reissue (s.reissueAt c) (.reply status .none)
  | window {c : Instr} (mine : c ∈ ([.seek, .get, .patchBegin, .patchEnd] : List Instr)) (w : TableWindow) (status : Status)
      (result : ReplyResult) : RuleStep s c (s.setWindow w) (.reply status result)
  | standbyRow (r : Operator) (v : PolicyValues) (status : Status) (result : ReplyResult) :
      RuleStep s .put (s.setStandbyRow r ((s.standbyRow r).written v)).advanceCursor (.reply status result)
  | rangeRow (r : Fin 32) (v : RangeValues) (status : Status) (result : ReplyResult) :
      RuleStep s .put { s with ranges := s.ranges.set r (s.ranges[r].written v) }.advanceCursor (.reply status result)
  | flipped (quiet : s.settle.inFlight = none) : RuleStep s .switchPolicy s.flip (.reply .ok .none)
  | switching (busy : s.settle.inFlight.isSome = true) :
      RuleStep s .switchPolicy { s with policy := { s.policy with switchPending := true } } (.hold .switchPolicy)
  | intercepting {value : Bool} (disposing : s.inDisposition = true) (differs : s.intake.effective ≠ value) :
      RuleStep s .intercept { s with intake := { s.intake with requested := value } } (.hold .intercept)
  | intercepted (value : Bool) :
      RuleStep s .intercept { s with intake := { s.intake with requested := value, effective := value } } (.reply .ok .none)
  | timeSet {value : Nat} (bound : value < 4294967296) : RuleStep s .setTime { s with time := ⟨.set, value⟩ } (.reply .ok .none)
  | counters (result : ReplyResult) : RuleStep s .readStatus s.clearCounters (.reply .ok result)
  | masks (a : MaskArgs) : RuleStep s .setNoticeMask
      { s with notices := { s.notices with caseMasked := a.caseMasked, logMasked := a.logMasked }.refreshPending } (.reply .ok .none)
  | logCleared (a : ClearArgs) (pending : Bool) : RuleStep s .clearLog
      { s with log := s.log.clear a, notices := { s.notices with logPending := pending } } (.reply .ok .none)
  | softReset : RuleStep s .softReset s.softReset (.reply .ok .none)

/-! ### What a command does -/

/-- `CommandStep s c t`: command `c`, run in `s`, ends in `t`. A command whose entry is taken answers it, by its own rule or refused
before it; each other command finds nothing to do or does one of the things its rule gives. -/
inductive CommandStep (s : State) : Instr → State → Prop
  | idle (c : Instr) : CommandStep s c s
  | refused {entry : List Byte} (c : Instr) (e : ReplyEntry) (next : s.nextEntry = some entry) : CommandStep s c (s.writeReply e)
  | ruled {entry : List Byte} {c : Instr} {code : Byte} {u : State} {a : Response} (next : s.nextEntry = some entry)
      (ready : s.init = .ready ∨ c = .readStatus) (rule : RuleStep s c u a) : CommandStep s c (u.finish code a)
  | hardReset : CommandStep s .hardReset { State.reset with freeDraws := s.freeDraws, pending := s.pending }
  | cleared (period : s.init = .initializing) : CommandStep s .initializationEnd s.cleared
  | linkDown (port : Port) : CommandStep s (.linkDown port) (s.dropLink port)
  | linkUp (port : Port) : CommandStep s (.linkUp port) (s.raiseLink port)
  | dpDiscarded (f : RxFrame) : CommandStep s (.dpParcelArrival f) { s with dp := { s.dp with dropped := bump s.dp.dropped } }
  | dpBuffered (f : RxFrame) (ready : s.init = .ready) (room : s.dp.buffer.length < 8) : CommandStep s (.dpParcelArrival f)
      { s with dp := { s.dp with buffer := s.dp.buffer ++ [f.payload], dropRun := false } }
  | dpCounted (f : RxFrame) : CommandStep s (.dpParcelArrival f)
      { s with dp := { s.dp with dropped := bump s.dp.dropped, dropRun := true } }
  | dpLogged (f : RxFrame) (x : ExceptionDetail) : CommandStep s (.dpParcelArrival f)
      ({ s with dp := { s.dp with dropped := bump s.dp.dropped, dropRun := true }, freeDraws := s.freeDraws + 1 }.logException
        none none none x)
  | cpLogged (f : RxFrame) (x : ExceptionDetail) : CommandStep s (.cpParcelArrival f) (s.logException none none none x)
  | cpQueued {p : Parcel} (f : RxFrame) (passed : checkParcel f.payload = .ok p) (kind : p.header.kind = .control)
      (room : s.cp.queue.length < 8) : CommandStep s (.cpParcelArrival f)
      { s with cp := { s.cp with queue := s.cp.queue ++ [⟨p.header, p.entries⟩] } }
  | cpDropped (f : RxFrame) (x : ExceptionDetail) : CommandStep s (.cpParcelArrival f)
      ({ s with control := { s.control with dropped := bump s.control.dropped } }.logException none none none x)
  | intakeDropped (x : ExceptionDetail) : CommandStep s .intakeTakeParcel
      ({ s with dp := { s.dp with buffer := s.dp.buffer.tail } }.logException none none none x)
  | intakeTaken {p : Parcel} (full : s.dp.buffer ≠ []) (room : p.entries.length ≤ 512 - s.intake.used) :
      CommandStep s .intakeTakeParcel (s.takeUpload p)
  | dispositionStarted {p : IntakeParcel} {rest : List IntakeParcel} (head : s.intake.queue = p :: rest)
      (waiting : p.condition = .waiting) : CommandStep s .dispositionStartParcel
      { s with intake := { s.intake with queue := p.started :: rest } }
  | disposed {p : IntakeParcel} {rest : List IntakeParcel} {r : IntakeRecord} (head : s.disposesNext p rest r) :
      CommandStep s .recordDisposition (s.disposeHead r)
  | forwarded {p : IntakeParcel} {rest : List IntakeParcel} (head : s.intake.queue = p :: rest) (marked : p.condition = .marked)
      (room : s.forward.length < 16) : CommandStep s .forwardQueueEntry
      { s with intake := { s.intake with queue := rest }, forward := s.forward ++ [p.forwarded] }
  | granted (free : s.cp.sending = none) : CommandStep s .cpOutputGrant { s with cp := { s.cp with sending := s.firstSource } }
  | sent {source : CpSource} (sending : s.cp.sending = some source) : CommandStep s .cpSendComplete (s.sent source)
  | parcelStarted {p : ControlParcel} {rest : List ControlParcel} (idle : s.control.phase = .idle) (head : s.cp.queue = p :: rest) :
      CommandStep s .controlParcelStart { s with control := { s.control with phase := .executing [] none } }
  | advanced (clock : s.time.clock = .set) (below : s.time.now < 4294967295) :
      CommandStep s .partTimeAdvance { s with time := { s.time with now := s.time.now + 1 } }
  | windowExpired {c : Nat} {r : CaseRecord} (due : s.dueOf .windowEnd = some (c, r)) :
      CommandStep s .windowEndExpiry (s.windowExpires c r)
  | collectionExpired {c : Nat} {r : CaseRecord} (due : s.dueOf .collection = some (c, r)) :
      CommandStep s .collectionDeadlineExpiry ((s.collectionExpires c r).afterReached s)
  | tailExpired {c : Nat} {r : CaseRecord} (due : s.dueOf .tailEnd = some (c, r)) :
      CommandStep s .tailEndExpiry (s.tailExpires c r)
  | operationStarted {req : SettleRequest} {rest : List SettleRequest} (head : s.settle.fifo = req :: rest)
      (quiet : s.settle.inFlight = none) (noSwitch : s.policy.switchPending = false) : CommandStep s .settleOperationStart
      { s with settle := ⟨rest, some (s.operationOn req)⟩ }
  | completed {op : Operation} (flight : s.settle.inFlight = some op) : CommandStep s .settlementCompletion s.completeOperation
  | actionsTaken (none : s.actions.taken = []) : CommandStep s .actionParcelStart
      { s with actions := { s.actions with taken := s.actions.untaken.take 16, untaken := s.actions.untaken.drop 16 } }
  | actionsSent (some : s.actions.taken ≠ []) : CommandStep s .actionParcelSent s.actionsSent
  | noticeBuilt (none : s.notices.parcel = none) : CommandStep s .noticeBuild { s with notices := s.notices.build s.log }

/-! ### Every command does one of these -/

/-- Executing a command entry: nothing, a refusal before the rule, or the rule and its answer. -/
theorem CommandStep.execute {α : Type} {s : State} {c : Instr} {code : Byte} {read : List Byte → Option α}
    {run : State → α → State × Response} (hc : code ≠ readStatusCode ∨ c = .readStatus)
    (rule : ∀ args a, read args = some a → RuleStep s c (run s a).1 (run s a).2) : CommandStep s c (s.execute code read run) := by
  rcases s.execute_cases code read run with e | ⟨entry, status, hn, e⟩ | ⟨entry, a, hn, hi, hr, e⟩ <;> rw [e]
  · exact .idle c
  · exact .refused c _ hn
  · refine .ruled hn ?_ (rule _ a hr)
    rcases hc with hc | hc
    · left
      cases hs : s.init with
      | ready => rfl
      | initializing => exact absurd ⟨hs, hc⟩ hi
    · exact .inr hc

/-- A case command's rule on a named case, or its refusal NO_SUCH_CASE. -/
theorem RuleStep.withCase {s : State} {c : Instr} {n : CaseName} {run : State → Nat → State × Response}
    (rule : (s.caseAt n.caseNo).state ≠ .free → RuleStep s c (run s n.caseNo).1 (run s n.caseNo).2) :
    RuleStep s c (s.withCase n run).1 (s.withCase n run).2 := by
  rcases s.withCase_cases n run with ⟨h, e⟩ | ⟨_, e⟩ <;> rw [e]
  · exact rule ((s.named_iff _ _).mp h).2.1
  · exact .stays c _ _

theorem RuleStep.openCase (s : State) (a : OpenArgs) : RuleStep s .openCase (runOpenCase s a).1 (runOpenCase s a).2 := by
  unfold runOpenCase
  split
  · next ho hl => exact .opened _ _ ho hl
  · exact .stays _ _ _
  · exact .stays _ _ _

theorem RuleStep.cancel (s : State) (c : Nat) (hn : (s.caseAt c).state ≠ .free) :
    RuleStep s .cancelCase (cancelNamed s c).1 (cancelNamed s c).2 := by
  unfold cancelNamed
  split
  · next h => exact .cancelled _ hn h
  · exact .stays _ _ _

theorem RuleStep.release (s : State) (c : Nat) : RuleStep s .releaseCase (releaseNamed s c).1 (releaseNamed s c).2 := by
  unfold releaseNamed
  dsimp only
  split
  · next h =>
    split
    · exact .stays _ _ _
    · exact .released _ h
  · exact .stays _ _ _

theorem RuleStep.force (basis : Int) (noPasses : Bool) (s : State) (c : Nat) :
    RuleStep s .forceSettle (forceNamed basis noPasses s c).1 (forceNamed basis noPasses s c).2 := by
  unfold forceNamed
  dsimp only
  split
  · split
    · exact .forced _
    · exact .stays _ _ _
  · exact .stays _ _ _

theorem RuleStep.reissue (s : State) (c : Nat) : RuleStep s .reissue (reissueNamed s c).1 (reissueNamed s c).2 := by
  unfold reissueNamed
  split
  · next h => exact .reissued _ h
  · exact .stays _ _ _

theorem RuleStep.readArrivals (start : Nat) (s : State) (c : Nat) :
    RuleStep s .readArrivals (arrivalsNamed start s c).1 (arrivalsNamed start s c).2 := by
  unfold arrivalsNamed
  dsimp only
  split <;> exact .stays _ _ _

theorem RuleStep.seek (s : State) (target : Cursor) : RuleStep s .seek (runSeek s target).1 (runSeek s target).2 := by
  unfold runSeek
  split
  · exact .stays _ _ _
  · exact .window (by simp) _ _ _

theorem RuleStep.put (s : State) (a : PutArgs) : RuleStep s .put (runPut s a).1 (runPut s a).2 := by
  unfold runPut
  split
  · exact .stays _ _ _
  · exact .stays _ _ _
  · exact .standbyRow _ _ _ _
  · exact .rangeRow _ _ _ _
  · exact .stays _ _ _
  · exact .stays _ _ _

theorem RuleStep.patchBegin (s : State) (a : Unit) : RuleStep s .patchBegin (runPatchBegin s a).1 (runPatchBegin s a).2 := by
  unfold runPatchBegin
  split
  · exact .stays _ _ _
  · exact .window (by simp) _ _ _

theorem RuleStep.patchEnd (s : State) (a : Unit) : RuleStep s .patchEnd (runPatchEnd s a).1 (runPatchEnd s a).2 := by
  unfold runPatchEnd
  split
  · exact .stays _ _ _
  · exact .window (by simp) _ _ _

theorem RuleStep.switchPolicy (s : State) (a : Unit) :
    RuleStep s .switchPolicy (runSwitchPolicy s a).1 (runSwitchPolicy s a).2 := by
  unfold runSwitchPolicy
  split
  · next h => exact .flipped (by simpa using h)
  · next h => exact .switching (by simpa [Option.isSome_iff_ne_none] using h)

theorem RuleStep.intercept (s : State) (value : Bool) : RuleStep s .intercept (runIntercept s value).1 (runIntercept s value).2 := by
  unfold runIntercept
  split
  · exact .stays _ _ _
  · split
    · next h => exact .intercepting h.1 h.2
    · exact .intercepted value

/-- The number in a field of so many bytes is below the field's limit. -/
theorem fieldNat_lt (bs : List Byte) (at' w : Nat) : fieldNat bs at' w < 256 ^ w := by
  have key : ∀ (l : List Byte) (n : Nat), l.foldl (fun n b => n * 256 + b.toNat) n < (n + 1) * 256 ^ l.length := by
    intro l
    induction l with
    | nil => intro n; simp
    | cons b l ih =>
      intro n
      have hb := b.isLt
      calc (b :: l).foldl (fun n b => n * 256 + b.toNat) n < (n * 256 + b.toNat + 1) * 256 ^ l.length := ih _
        _ ≤ ((n + 1) * 256) * 256 ^ l.length := Nat.mul_le_mul_right _ (by omega)
        _ = (n + 1) * 256 ^ (b :: l).length := by rw [List.length_cons, Nat.pow_succ]; ring
  have h := key (fieldBytes bs at' w) 0
  rw [Nat.zero_add, Nat.one_mul] at h
  exact Nat.lt_of_lt_of_le h (Nat.pow_le_pow_right (by omega) (by simp [fieldBytes]))

theorem RuleStep.setTime {s : State} {args : List Byte} {value : Nat} (h : readSetTime args = some value) :
    RuleStep s .setTime (runSetTime s value).1 (runSetTime s value).2 := by
  unfold readSetTime at h
  split at h
  · cases h
    unfold runSetTime
    split
    · exact .stays _ _ _
    · exact .timeSet (fieldNat_lt args 0 4)
  · cases h

theorem RuleStep.readStatus (s : State) (clear : Bool) :
    RuleStep s .readStatus (runReadStatus s clear).1 (runReadStatus s clear).2 := by
  cases clear
  · exact .stays _ _ _
  · exact .counters _

theorem CommandStep.deviceParcel (s : State) (f : RxFrame) : CommandStep s (.dpParcelArrival f) (s.deviceParcel f.payload) := by
  unfold State.deviceParcel
  split
  · exact .dpDiscarded f
  · next hi =>
    split
    · next hr => exact .dpBuffered f hi hr
    · unfold State.dropParcel
      dsimp only
      split
      · exact .dpCounted f
      · exact .dpLogged f _

theorem CommandStep.clearingParcel (s : State) (f : RxFrame) :
    CommandStep s (.cpParcelArrival f) (s.clearingParcel f.payload) := by
  unfold State.clearingParcel
  split
  · exact .cpLogged f _
  · next p hp =>
    split
    · next hk =>
      unfold State.controlParcel
      split
      · next hr => exact .cpQueued f hp hk hr
      · exact .cpDropped f _
    · exact .cpLogged f _

theorem CommandStep.intakeTake {s : State} (payload : List Byte) (h : s.dp.buffer ≠ []) :
    CommandStep s .intakeTakeParcel (s.intakeTake payload) := by
  unfold State.intakeTake
  dsimp only
  split
  · exact .intakeDropped _
  · split
    · split
      · next hr => exact .intakeTaken h hr
      · exact .idle _
    · exact .intakeDropped _

/-- Every command ends in a next state, by one of the steps of `CommandStep`. -/
theorem exec_commandStep (c : Instr) (s : State) : ∃ t, exec c s = .next t ∧ CommandStep s c t := by
  cases c with
  | hardReset => exact ⟨_, rfl, .hardReset⟩
  | initializationEnd =>
    refine ⟨_, rfl, ?_⟩
    split
    · next h => exact .cleared h
    · exact .idle _
  | linkDown port => exact ⟨_, rfl, .linkDown port⟩
  | linkUp port => exact ⟨_, rfl, .linkUp port⟩
  | dpParcelArrival f =>
    refine ⟨_, rfl, ?_⟩
    split
    · exact .deviceParcel s f
    · exact .idle _
  | cpParcelArrival f =>
    refine ⟨_, rfl, ?_⟩
    split
    · exact .clearingParcel s f
    · exact .idle _
  | intakeTakeParcel =>
    refine ⟨_, rfl, ?_⟩
    split
    · exact .idle _
    · next payload rest h => exact .intakeTake payload (by rw [h]; simp)
  | dispositionStartParcel =>
    refine ⟨_, rfl, ?_⟩
    split
    · exact .idle _
    · next h =>
      split
      · next hw => exact .dispositionStarted h hw
      · exact .idle _
  | recordDisposition =>
    refine ⟨_, rfl, ?_⟩
    split
    · exact .idle _
    · next h =>
      split
      · next hd =>
        split
        · next hr => exact .disposed ⟨h, hd, hr⟩
        · exact .idle _
      · exact .idle _
  | forwardQueueEntry =>
    refine ⟨_, rfl, ?_⟩
    split
    · exact .idle _
    · next h =>
      split
      · next hm => exact .forwarded h hm.1 hm.2
      · exact .idle _
  | cpOutputGrant =>
    refine ⟨_, rfl, ?_⟩
    split
    · next h =>
      simp only [Bool.and_eq_true, Option.isNone_iff_eq_none] at h
      exact .granted h.2
    · exact .idle _
  | cpSendComplete =>
    refine ⟨_, rfl, ?_⟩
    split
    · next h => exact .sent h
    · exact .idle _
  | controlParcelStart =>
    refine ⟨_, rfl, ?_⟩
    split
    · next hi hq => exact .parcelStarted hi hq
    · exact .idle _
  | openCase => exact ⟨_, rfl, .execute (.inl (by decide)) fun _ a _ => .openCase s a⟩
  | cancelCase => exact ⟨_, rfl, .execute (.inl (by decide)) fun _ _ _ => .withCase (.cancel s _)⟩
  | releaseCase => exact ⟨_, rfl, .execute (.inl (by decide)) fun _ _ _ => .withCase fun _ => .release s _⟩
  | forceSettle => exact ⟨_, rfl, .execute (.inl (by decide)) fun _ _ _ => .withCase fun _ => .force _ _ s _⟩
  | reissue => exact ⟨_, rfl, .execute (.inl (by decide)) fun _ _ _ => .withCase fun _ => .reissue s _⟩
  | readCase => exact ⟨_, rfl, .execute (.inl (by decide)) fun _ _ _ => .withCase fun _ => .stays _ _ _⟩
  | readArrivals => exact ⟨_, rfl, .execute (.inl (by decide)) fun _ _ _ => .withCase fun _ => .readArrivals _ s _⟩
  | seek => exact ⟨_, rfl, .execute (.inl (by decide)) fun _ a _ => .seek s a⟩
  | get => exact ⟨_, rfl, .execute (.inl (by decide)) fun _ _ _ => .window (by simp) _ _ _⟩
  | put => exact ⟨_, rfl, .execute (.inl (by decide)) fun _ a _ => .put s a⟩
  | patchBegin => exact ⟨_, rfl, .execute (.inl (by decide)) fun _ a _ => .patchBegin s a⟩
  | patchEnd => exact ⟨_, rfl, .execute (.inl (by decide)) fun _ a _ => .patchEnd s a⟩
  | switchPolicy => exact ⟨_, rfl, .execute (.inl (by decide)) fun _ a _ => .switchPolicy s a⟩
  | intercept => exact ⟨_, rfl, .execute (.inl (by decide)) fun _ a _ => .intercept s a⟩
  | setTime => exact ⟨_, rfl, .execute (.inl (by decide)) fun _ _ h => .setTime h⟩
  | readStatus => exact ⟨_, rfl, .execute (.inr rfl) fun _ a _ => .readStatus s a⟩
  | setNoticeMask => exact ⟨_, rfl, .execute (.inl (by decide)) fun _ a _ => .masks a⟩
  | readLog => exact ⟨_, rfl, .execute (.inl (by decide)) fun _ _ _ => .stays _ _ _⟩
  | clearLog => exact ⟨_, rfl, .execute (.inl (by decide)) fun _ a _ => .logCleared a _⟩
  | softReset => exact ⟨_, rfl, .execute (.inl (by decide)) fun _ _ _ => .softReset⟩
  | partTimeAdvance =>
    refine ⟨_, rfl, ?_⟩
    split
    · next hc =>
      split
      · next hb => exact .advanced hc hb
      · exact .idle _
    · exact .idle _
  | windowEndExpiry =>
    refine ⟨_, rfl, ?_⟩
    split
    · next h => exact .windowExpired h
    · exact .idle _
  | collectionDeadlineExpiry =>
    refine ⟨_, rfl, ?_⟩
    split
    · next h => exact .collectionExpired h
    · exact .idle _
  | tailEndExpiry =>
    refine ⟨_, rfl, ?_⟩
    split
    · next h => exact .tailExpired h
    · exact .idle _
  | settleOperationStart =>
    refine ⟨_, rfl, ?_⟩
    unfold State.startOperation
    split
    · exact .idle _
    · next h =>
      split
      · next hq =>
        simp only [Bool.and_eq_true, Option.isNone_iff_eq_none, Bool.not_eq_true'] at hq
        exact .operationStarted h hq.1 hq.2
      · exact .idle _
  | settlementCompletion =>
    refine ⟨_, rfl, ?_⟩
    cases h : s.settle.inFlight with
    | none => unfold State.completeOperation; rw [h]; exact .idle _
    | some op => exact .completed h
  | actionParcelStart =>
    refine ⟨_, rfl, ?_⟩
    split
    · next h =>
      simp only [Bool.and_eq_true, List.isEmpty_iff] at h
      exact .actionsTaken h.2
    · exact .idle _
  | actionParcelSent =>
    refine ⟨_, rfl, ?_⟩
    split
    · exact .idle _
    · next h => exact .actionsSent (by simpa using h)
  | noticeBuild =>
    refine ⟨_, rfl, ?_⟩
    split
    · next h =>
      simp only [Bool.and_eq_true, Option.isNone_iff_eq_none] at h
      exact .noticeBuilt h.1
    · exact .idle _
  | unknownCommand =>
    refine ⟨_, rfl, ?_⟩
    split
    · exact .idle _
    · next h =>
      split
      · exact .idle _
      · exact .refused _ _ h

theorem CommandStep.of_exec {c : Instr} {s t : State} (h : exec c s = .next t) : CommandStep s c t := by
  obtain ⟨u, hu, step⟩ := exec_commandStep c s
  obtain rfl : u = t := by rw [hu] at h; exact Host.Outcome.next.inj h
  exact step

/-- What every command keeps is kept by a step, which idles or runs the front command; `P` may not speak of the waiting commands. -/
theorem step_keeps {P : State → Prop} (rest : ∀ (s : State) (l : List Instr), P s → P { s with pending := l })
    (command : ∀ (c : Instr) (s t : State), P s → CommandStep s c t → P t) {s t : State} (hs : P s) (h : step s = .next t) :
    P t := by
  unfold step at h
  split at h
  · cases h; exact hs
  · next c l _ => exact command c _ t (rest s l hs) (.of_exec h)

end Sys2Proof.Machine
end

section
/-! PROOFS. What every step keeps of the queues, the counters, the part time and the block range masks (R30, R37, R51, R75, R119,
R124, R151, R154, R162, R175, R182, R184). -/

namespace Sys2Proof.Machine

/-! ### Frames of the larger events -/

theorem PartStep.dropRequest (s : State) (c : Nat) : PartStep s (s.dropRequest c) where
  frame := rfl
  inFlight := rfl
  fifo := fun h => h.sublist (List.filter_sublist.map _)
  taken := rfl
  seq := rfl
  depth := id
  notices := rfl
  events := id
  lost := id
  lostRecords := id

/-- CANCEL_CASE touches nothing but what the events of cases touch (R24). -/
theorem PartStep.cancelAt (s : State) (c : Nat) : PartStep s (s.cancelAt c) := by
  have h1 : PartStep s (((s.withdraw c).1.dropRequest c).placeUnblock c) :=
    ((CaseStep.withdraw s c).part.trans (.dropRequest _ c)).trans (CaseStep.placeUnblock _ c).part
  exact (PartStep.endEvent (o := (_, _)) (h1.trans (CaseStep.setCase _ c _).part)).afterReached s

theorem PartStep.reissueAt (s : State) (c : Nat) : PartStep s (s.reissueAt c) :=
  (PartStep.endEvent ((CaseStep.setCase s c _).trans (.reconcile _ c false)).part).afterReached s

/-- What an OPEN_CASE that is not refused finds (R9). -/
theorem State.openRefusal_none {s : State} {a : OpenArgs} (h : s.openRefusal a = none) :
    s.time.clock = .set ∧ (s.activeRow a.operator).valid = true ∧ a.oldCard ≠ 0 ∧ a.newCard ≠ 0 ∧ a.baselineOk = true
      ∧ a.oldCard ≠ a.newCard ∧ s.lookup a.oldCard = none ∧ s.lookup a.newCard = none ∧ s.rangeBlocked a.newCard = false
      ∧ s.lowestFree.isSome = true ∧ s.actions.depth < 256 := by
  unfold State.openRefusal at h
  split at h
  · cases h
  next hclock =>
  split at h
  · cases h
  next hvalid =>
  split at h
  · cases h
  next hargs =>
  split at h
  · cases h
  next hsame =>
  split at h
  · cases h
  next hindex =>
  split at h
  · cases h
  next hrange =>
  split at h
  · cases h
  next hfree =>
  split at h
  · cases h
  next hroom =>
  simp only [not_or, Bool.not_eq_false, Option.not_isSome_iff_eq_none] at hargs hindex hroom
  refine ⟨?_, by simpa using hvalid, hargs.1, hargs.2.1, hargs.2.2, hsame, hindex.1, hindex.2, by simpa using hrange, ?_,
    s.admitsOther_iff.mp hroom⟩
  · cases hc : s.time.clock with
    | set => rfl
    | unset => exact absurd hc hclock
  · simpa [Option.isSome_iff_ne_none] using hfree

/-- Opening a case is an event of that case, but for its Card Index entries (R12). -/
theorem CaseStep.openAt {s : State} (c : Nat) (a : OpenArgs) (room : s.actions.depth < 256) :
    CaseStep { s with index := (s.openAt c a).index } (s.openAt c a) :=
  (CaseStep.setCase { s with index := (s.openAt c a).index } c _).trans (.enqueue _ _ room)

/-- Releasing a case touches its record, its request, its Card Index entries and the pool (R25). -/
theorem PartStep.releaseAt (s : State) (c : Nat) : PartStep { s with index := (s.releaseAt c).index } (s.releaseAt c) where
  frame := rfl
  inFlight := rfl
  fifo := fun h => h.sublist (List.filter_sublist.map _)
  taken := rfl
  seq := rfl
  depth := id
  notices := rfl
  events := id
  lost := id
  lostRecords := id

/-! ### Queues -/

theorem PartStep.queuesOk {s t : State} (h : PartStep s t) (k : s.queuesOk) : t.queuesOk := by
  obtain ⟨hdp, hcp, hfw, hin, htk, hdepth, hnt, hev, hpc, hfifo⟩ := k
  have hframe := h.frame
  refine ⟨by rwa [hframe], by rwa [hframe], by rwa [hframe], by rwa [hframe], by rwa [h.taken], h.depth hdepth, by rwa [h.notices],
    h.events hev, ?_, h.fifo hfifo⟩
  rwa [h.notices]

/-- Nothing but the phase of the Control Unit, the policy and fields the capacities do not speak of. -/
theorem State.queuesOk_congr {s t : State} (dp : t.dp.buffer = s.dp.buffer) (cp : t.cp.queue = s.cp.queue)
    (fw : t.forward = s.forward) (used : t.intake.used = s.intake.used) (ac : t.actions = s.actions)
    (nt : t.notices = s.notices) (fifo : t.settle.fifo = s.settle.fifo) (k : s.queuesOk) : t.queuesOk := by
  unfold State.queuesOk at *
  rw [dp, cp, fw, used, ac, nt, fifo]
  exact k

theorem State.queuesOk.finish {s : State} (k : s.queuesOk) (code : Byte) (a : Response) : (s.finish code a).queuesOk :=
  State.queuesOk_congr (by simp) (by simp) (by simp) (by simp) (by simp) (by simp) (by simp) k

theorem State.queuesOk.logException {s : State} (k : s.queuesOk) (c : Option Nat) (b : Option CardId) (d : Option DeviceId)
    (x : ExceptionDetail) : (s.logException c b d x).queuesOk := (PartStep.logException s c b d x).queuesOk k

@[simp] theorem length_markFirst (l : List IntakeRecord) (m : Mark) : (markFirst l m).length = l.length := by
  induction l with
  | nil => rfl
  | cons r l ih =>
    simp only [markFirst]
    split <;> simp [ih]

theorem State.markHead_used (s : State) (m : Mark) : (s.markHead m).intake.used = s.intake.used := by
  unfold State.markHead
  split
  · rfl
  · next p rest h =>
    have e : ∀ u : IntakeUnit, u.queue = p.afterMark m :: rest → u.used = s.intake.used := by
      intro u hu
      simp [IntakeUnit.used, hu, h, IntakeParcel.afterMark]
    dsimp only
    split
    · exact e _ (by simp [State.boundary])
    · exact e _ rfl

/-- The marking of a record touches the intake queue, the effective intercept value and the phase of the Control Unit (R41, R49). -/
theorem State.markHead_frame (s : State) (m : Mark) : s.markHead m = { s with
    intake := (s.markHead m).intake, control := { s.control with phase := (s.markHead m).control.phase } } := by
  unfold State.markHead State.boundary State.completeHeld State.writeReply
  split
  · rfl
  · dsimp only
    repeat' split
    all_goals rfl

@[simp] theorem State.markHead_settle (s : State) (m : Mark) : (s.markHead m).settle = s.settle := by
  rw [State.markHead_frame]
@[simp] theorem State.markHead_dp (s : State) (m : Mark) : (s.markHead m).dp = s.dp := by
  rw [State.markHead_frame]
@[simp] theorem State.markHead_cp (s : State) (m : Mark) : (s.markHead m).cp = s.cp := by
  rw [State.markHead_frame]
@[simp] theorem State.markHead_forward (s : State) (m : Mark) : (s.markHead m).forward = s.forward := by
  rw [State.markHead_frame]
@[simp] theorem State.markHead_actions (s : State) (m : Mark) : (s.markHead m).actions = s.actions := by
  rw [State.markHead_frame]
@[simp] theorem State.markHead_notices (s : State) (m : Mark) : (s.markHead m).notices = s.notices := by
  rw [State.markHead_frame]
@[simp] theorem State.markHead_log (s : State) (m : Mark) : (s.markHead m).log = s.log := by
  rw [State.markHead_frame]
@[simp] theorem State.markHead_time (s : State) (m : Mark) : (s.markHead m).time = s.time := by
  rw [State.markHead_frame]
@[simp] theorem State.markHead_ranges (s : State) (m : Mark) : (s.markHead m).ranges = s.ranges := by
  rw [State.markHead_frame]
@[simp] theorem State.markHead_cases (s : State) (m : Mark) : (s.markHead m).cases = s.cases := by
  rw [State.markHead_frame]
@[simp] theorem State.markHead_index (s : State) (m : Mark) : (s.markHead m).index = s.index := by
  rw [State.markHead_frame]
@[simp] theorem State.markHead_poolFree (s : State) (m : Mark) : (s.markHead m).poolFree = s.poolFree := by
  rw [State.markHead_frame]
@[simp] theorem State.markHead_pending (s : State) (m : Mark) : (s.markHead m).pending = s.pending := by
  rw [State.markHead_frame]
@[simp] theorem State.markHead_init (s : State) (m : Mark) : (s.markHead m).init = s.init := by
  rw [State.markHead_frame]
@[simp] theorem State.markHead_freeDraws (s : State) (m : Mark) : (s.markHead m).freeDraws = s.freeDraws := by
  rw [State.markHead_frame]
@[simp] theorem State.markHead_window (s : State) (m : Mark) : (s.markHead m).control.window = s.control.window := by
  rw [State.markHead_frame]
@[simp] theorem State.markHead_dropped (s : State) (m : Mark) : (s.markHead m).control.dropped = s.control.dropped := by
  rw [State.markHead_frame]

/-- The disposition of the head parcel's next record: the record's effects, its mark, and what follows (R41). -/
theorem State.disposeHead_steps (s : State) (r : IntakeRecord) :
    ∃ (u : State) (m : Mark), PartStep s u ∧ PartStep (u.markHead m) (s.disposeHead r) :=
  ⟨_, _, PartStep.dispose s r.raw r.stamp, (PartStep.endEvent (o := (_, _)) (.refl _)).afterReached s⟩

/-- A completion: the operation leaves its place, its effects, then a waiting flip (R79, R147). -/
theorem State.completeOperation_steps {s : State} {op : Operation} (h : s.settle.inFlight = some op) :
    ∃ u : State, PartStep { s with settle := { s.settle with inFlight := none } } u ∧ s.completeOperation = u.flipIfPending :=
  ⟨_, (PartStep.endEvent (PartStep.complete { s with settle := { s.settle with inFlight := none } } op)).afterReached s,
    by unfold State.completeOperation; rw [h]⟩

/-- The end of an action parcel's frame: its entries leave, then the freed room is served (R122, R124). -/
theorem State.actionsSent_steps (s : State) :
    PartStep { s with actions := { s.actions with taken := [], seq := s.actions.seq + 1 } } s.actionsSent :=
  (CaseStep.serveOwed _).part.afterReached s

/-- A released flip touches the policy banks and the phase of the Control Unit (R147). -/
theorem State.flipIfPending_frame (s : State) : s.flipIfPending = { s with
    policy := s.flipIfPending.policy, control := { s.control with phase := s.flipIfPending.control.phase } } := by
  unfold State.flipIfPending State.completeHeld State.writeReply State.flip
  repeat' split
  all_goals rfl

@[simp] theorem State.flipIfPending_dp (s : State) : s.flipIfPending.dp = s.dp := by
  rw [State.flipIfPending_frame]
@[simp] theorem State.flipIfPending_cp (s : State) : s.flipIfPending.cp = s.cp := by
  rw [State.flipIfPending_frame]
@[simp] theorem State.flipIfPending_forward (s : State) : s.flipIfPending.forward = s.forward := by
  rw [State.flipIfPending_frame]
@[simp] theorem State.flipIfPending_intake (s : State) : s.flipIfPending.intake = s.intake := by
  rw [State.flipIfPending_frame]
@[simp] theorem State.flipIfPending_actions (s : State) : s.flipIfPending.actions = s.actions := by
  rw [State.flipIfPending_frame]
@[simp] theorem State.flipIfPending_notices (s : State) : s.flipIfPending.notices = s.notices := by
  rw [State.flipIfPending_frame]
@[simp] theorem State.flipIfPending_settle (s : State) : s.flipIfPending.settle = s.settle := by
  rw [State.flipIfPending_frame]
@[simp] theorem State.flipIfPending_log (s : State) : s.flipIfPending.log = s.log := by
  rw [State.flipIfPending_frame]
@[simp] theorem State.flipIfPending_time (s : State) : s.flipIfPending.time = s.time := by
  rw [State.flipIfPending_frame]
@[simp] theorem State.flipIfPending_ranges (s : State) : s.flipIfPending.ranges = s.ranges := by
  rw [State.flipIfPending_frame]
@[simp] theorem State.flipIfPending_cases (s : State) : s.flipIfPending.cases = s.cases := by
  rw [State.flipIfPending_frame]
@[simp] theorem State.flipIfPending_index (s : State) : s.flipIfPending.index = s.index := by
  rw [State.flipIfPending_frame]
@[simp] theorem State.flipIfPending_poolFree (s : State) : s.flipIfPending.poolFree = s.poolFree := by
  rw [State.flipIfPending_frame]
@[simp] theorem State.flipIfPending_pending (s : State) : s.flipIfPending.pending = s.pending := by
  rw [State.flipIfPending_frame]
@[simp] theorem State.flipIfPending_init (s : State) : s.flipIfPending.init = s.init := by
  rw [State.flipIfPending_frame]
@[simp] theorem State.flipIfPending_window (s : State) : s.flipIfPending.control.window = s.control.window := by
  rw [State.flipIfPending_frame]
@[simp] theorem State.flipIfPending_dropped (s : State) : s.flipIfPending.control.dropped = s.control.dropped := by
  rw [State.flipIfPending_frame]

/-- A notice takes at most 16 events, and none of them leaves the queue (R184). -/
theorem State.queuesOk.noticeBuilt {s : State} (k : s.queuesOk) (none : s.notices.parcel = none) :
    { s with notices := s.notices.build s.log }.queuesOk := by
  obtain ⟨hdp, hcp, hfw, hin, htk, hdepth, hnt, hev, hpc, hfifo⟩ := k
  have ht := hpc none
  have hroom : s.notices.eventRoom ≤ 16 := by
    unfold NoticeUnit.eventRoom Config.noticeEntries
    split
    · omega
    · split <;> omega
  rw [ht] at hev
  refine ⟨hdp, hcp, hfw, hin, htk, hdepth, ?_, ?_, ?_, hfifo⟩
  · simp [NoticeUnit.build, NoticeUnit.refreshPending, ht]; omega
  · simp [NoticeUnit.build, NoticeUnit.refreshPending, ht] at *; omega
  · simp [NoticeUnit.build, NoticeUnit.refreshPending]

theorem State.queuesOk.softReset {s : State} (k : s.queuesOk) : s.softReset.queuesOk := by
  obtain ⟨hdp, hcp, hfw, hin, htk, hdepth, hnt, hev, hpc, hfifo⟩ := k
  unfold State.softReset State.withdrawNotice
  split
  · refine ⟨hdp, ?_, hfw, hin, htk, hdepth, by simp, by simpa using hev, fun _ => rfl, hfifo⟩
    simp
  · refine ⟨hdp, ?_, hfw, hin, htk, hdepth, hnt, hev, hpc, hfifo⟩
    simp

theorem RuleStep.queuesOk {s u : State} {c : Instr} {a : Response} (h : RuleStep s c u a) (k : s.queuesOk) : u.queuesOk := by
  cases h with
  | opened st res accepted free =>
    obtain ⟨-, -, -, -, -, -, -, -, -, -, room⟩ := State.openRefusal_none accepted
    exact ((CaseStep.openAt _ _ room).part.afterReached s).queuesOk k
  | cancelled => exact (PartStep.cancelAt s _).queuesOk k
  | released => exact (PartStep.releaseAt s _).queuesOk k
  | forced => exact (PartStep.placeRequest s _ _).queuesOk k
  | reissued => exact (PartStep.reissueAt s _).queuesOk k
  | standbyRow => exact State.queuesOk_congr (by simp) (by simp) (by simp) (by simp) (by simp) (by simp) (by simp) k
  | rangeRow => exact State.queuesOk_congr (by simp) (by simp) (by simp) (by simp) (by simp) (by simp) (by simp) k
  | softReset => exact k.softReset
  | stays | window | flipped | switching | intercepting | intercepted | timeSet | counters | masks | logCleared => exact k

theorem State.takeUpload_cases (s : State) (p : Parcel) : ∃ u : State,
    u = { s with
      dp := { s.dp with buffer := s.dp.buffer.tail }
      intake := { s.intake with
        queue := s.intake.queue ++ [⟨p.header, p.entries.map (intakeRecord s.time.now), .waiting⟩] } } ∧
    (s.takeUpload p = u ∨ ∃ k d x, s.takeUpload p = u.logException none k d x) := by
  refine ⟨_, rfl, ?_⟩
  unfold State.takeUpload State.logMalformed
  dsimp only
  split
  · exact .inr ⟨_, _, _, rfl⟩
  · exact .inl rfl

theorem State.queuesOk.takeUpload {s : State} (k : s.queuesOk) {p : Parcel} (room : p.entries.length ≤ 512 - s.intake.used) :
    (s.takeUpload p).queuesOk := by
  obtain ⟨u, hu, h⟩ := s.takeUpload_cases p
  have ku : u.queuesOk := by
    obtain ⟨hdp, hcp, hfw, hin, htk, hdepth, hnt, hev, hpc, hfifo⟩ := k
    subst hu
    refine ⟨?_, hcp, hfw, ?_, htk, hdepth, hnt, hev, hpc, hfifo⟩
    · simp; omega
    · simp only [IntakeUnit.used, List.map_append, List.map_cons, List.map_nil, List.sum_append, List.sum_cons, List.sum_nil,
        List.length_map] at *
      omega
  rcases h with h | ⟨_, _, _, h⟩ <;> rw [h]
  · exact ku
  · exact ku.logException _ _ _ _

theorem State.queuesOk.exec {c : Instr} {s t : State} (k : s.queuesOk) (h : CommandStep s c t) : t.queuesOk := by
  have k' := k
  obtain ⟨hdp, hcp, hfw, hin, htk, hdepth, hnt, hev, hpc, hfifo⟩ := k
  cases h with
  | idle | dpDiscarded | dpCounted | granted | parcelStarted | advanced => exact k'
  | refused => exact State.queuesOk_congr (by simp) (by simp) (by simp) (by simp) (by simp) (by simp) (by simp) k'
  | ruled _ _ rule => exact (rule.queuesOk k').finish _ _
  | hardReset => simp [State.queuesOk, State.reset, IntakeUnit.used, ActionUnit.depth, NoticeUnit.reset]
  | cleared => exact ⟨by simp [State.cleared], hcp, by simp [State.cleared], by simp [State.cleared, IntakeUnit.used],
      by simp [State.cleared], by simp [State.cleared, ActionUnit.depth], hnt, hev, hpc, by simp [State.cleared]⟩
  | linkDown port =>
    cases port with
    | device =>
      refine ⟨hdp, hcp, hfw, hin, by simp [State.dropLink, ActionUnit.cut], ?_, hnt, hev, hpc, hfifo⟩
      simpa [State.dropLink, ActionUnit.cut, ActionUnit.depth] using hdepth
    | clearing => exact k'
  | linkUp port => cases port <;> exact k'
  | dpBuffered f ready room => exact ⟨by simp; omega, hcp, hfw, hin, htk, hdepth, hnt, hev, hpc, hfifo⟩
  | dpLogged | cpLogged | cpDropped => exact State.queuesOk.logException (by exact k') _ _ _ _
  | cpQueued f passed kind room => exact ⟨hdp, by simp; omega, hfw, hin, htk, hdepth, hnt, hev, hpc, hfifo⟩
  | intakeDropped x =>
    exact State.queuesOk.logException (by exact ⟨by simp; omega, hcp, hfw, hin, htk, hdepth, hnt, hev, hpc, hfifo⟩) _ _ _ _
  | intakeTaken full room => exact k'.takeUpload room
  | dispositionStarted head waiting =>
    refine State.queuesOk_congr (s := s) rfl rfl rfl ?_ rfl rfl rfl k'
    simp [IntakeUnit.used, head, IntakeParcel.started]
  | disposed head =>
    obtain ⟨u, m, h1, h2⟩ := s.disposeHead_steps _
    refine h2.queuesOk (State.queuesOk_congr (by simp) (by simp) (by simp) ?_ (by simp) (by simp) (by simp) (h1.queuesOk k'))
    exact u.markHead_used m
  | forwarded head marked room =>
    refine ⟨hdp, hcp, by simp; omega, ?_, htk, hdepth, hnt, hev, hpc, hfifo⟩
    simp [IntakeUnit.used, head] at hin ⊢
    omega
  | @sent source sending =>
    cases source with
    | reply => exact ⟨hdp, by simp [State.sent]; omega, hfw, hin, htk, hdepth, hnt, hev, hpc, hfifo⟩
    | notice =>
      exact ⟨hdp, hcp, hfw, hin, htk, hdepth, by simp [State.sent], by simp [State.sent]; omega, fun _ => rfl, hfifo⟩
    | forward => exact ⟨hdp, hcp, by simp [State.sent]; omega, hin, htk, hdepth, hnt, hev, hpc, hfifo⟩
  | windowExpired => exact (PartStep.windowExpires s _ _).queuesOk k'
  | collectionExpired => exact ((CaseStep.collectionExpires s _ _).part.afterReached s).queuesOk k'
  | tailExpired => exact (CaseStep.tailExpires s _ _).part.queuesOk k'
  | operationStarted head =>
    rw [head] at hfifo
    exact ⟨hdp, hcp, hfw, hin, htk, hdepth, hnt, hev, hpc, (List.nodup_cons.mp hfifo).2⟩
  | completed flight =>
    obtain ⟨u, h1, h2⟩ := State.completeOperation_steps flight
    rw [h2]
    exact State.queuesOk_congr (by simp) (by simp) (by simp) (by simp) (by simp) (by simp) (by simp)
      (h1.queuesOk (by exact k'))
  | actionsTaken none =>
    refine ⟨hdp, hcp, hfw, hin, by simp, ?_, hnt, hev, hpc, hfifo⟩
    simp [ActionUnit.depth, none] at hdepth ⊢
    omega
  | actionsSent some =>
    refine s.actionsSent_steps.queuesOk ⟨hdp, hcp, hfw, hin, by simp, ?_, hnt, hev, hpc, hfifo⟩
    simp [ActionUnit.depth] at hdepth ⊢
    omega
  | noticeBuilt none => exact k'.noticeBuilt none

/-! ### Counters -/

theorem PartStep.countersOk {s t : State} (h : PartStep s t) (k : s.countersOk) : t.countersOk := by
  obtain ⟨hdp, hctl, hlog, hev⟩ := k
  refine ⟨by rwa [h.frame], by rwa [h.frame], h.lostRecords hlog, h.lost hev⟩

theorem State.countersOk.logException {s : State} (k : s.countersOk) (c : Option Nat) (b : Option CardId) (d : Option DeviceId)
    (x : ExceptionDetail) : (s.logException c b d x).countersOk := (PartStep.logException s c b d x).countersOk k

theorem State.countersOk_congr {s t : State} (dp : t.dp.dropped = s.dp.dropped) (control : t.control.dropped = s.control.dropped)
    (log : t.log.lost = s.log.lost) (notices : t.notices.lost = s.notices.lost) (k : s.countersOk) : t.countersOk := by
  unfold State.countersOk at *
  rw [dp, control, log, notices]
  exact k

theorem RuleStep.countersOk {s u : State} {c : Instr} {a : Response} (h : RuleStep s c u a) (k : s.countersOk) :
    u.countersOk := by
  cases h with
  | opened st res accepted free =>
    obtain ⟨-, -, -, -, -, -, -, -, -, -, room⟩ := State.openRefusal_none accepted
    exact ((CaseStep.openAt _ _ room).part.afterReached s).countersOk k
  | cancelled => exact (PartStep.cancelAt s _).countersOk k
  | released => exact (PartStep.releaseAt s _).countersOk k
  | forced => exact (PartStep.placeRequest s _ _).countersOk k
  | reissued => exact (PartStep.reissueAt s _).countersOk k
  | standbyRow =>
    refine State.countersOk_congr (by simp) ?_ (by simp) (by simp) k
    unfold State.advanceCursor State.setStandbyRow
    split <;> rfl
  | counters => simp [State.countersOk, State.clearCounters]
  | logCleared a => cases a <;> exact k
  | softReset =>
    unfold State.softReset State.withdrawNotice
    split <;> simp [State.countersOk, ExceptionLog.reset]
  | stays | window | rangeRow | flipped | switching | intercepting | intercepted | timeSet | masks => exact k

theorem State.countersOk.exec {c : Instr} {s t : State} (k : s.countersOk) (h : CommandStep s c t) : t.countersOk := by
  have k' := k
  obtain ⟨hdp, hctl, hlog, hev⟩ := k
  cases h with
  | idle | dpBuffered | cpQueued | dispositionStarted | forwarded | granted | parcelStarted | advanced | operationStarted
  | actionsTaken | noticeBuilt | cleared => exact k'
  | refused => exact State.countersOk_congr (by simp) (by simp) (by simp) (by simp) k'
  | ruled _ _ rule => exact State.countersOk_congr (by simp) (by simp) (by simp) (by simp) (rule.countersOk k')
  | hardReset => simp [State.countersOk, State.reset, ExceptionLog.reset, NoticeUnit.reset]
  | linkDown port => cases port <;> exact k'
  | linkUp port => cases port <;> exact k'
  | dpDiscarded => exact ⟨bump_le _ hdp, hctl, hlog, hev⟩
  | dpCounted => exact ⟨bump_le _ hdp, hctl, hlog, hev⟩
  | dpLogged f x =>
    exact State.countersOk.logException (by exact ⟨bump_le _ hdp, hctl, hlog, hev⟩) _ _ _ _
  | cpLogged => exact k'.logException _ _ _ _
  | cpDropped => exact State.countersOk.logException (by exact ⟨hdp, bump_le _ hctl, hlog, hev⟩) _ _ _ _
  | intakeDropped x => exact State.countersOk.logException (by exact k') _ _ _ _
  | intakeTaken full room =>
    obtain ⟨u, rfl, h⟩ := s.takeUpload_cases _
    rcases h with h | ⟨_, _, _, h⟩ <;> rw [h]
    · exact k'
    · exact State.countersOk.logException (by exact k') _ _ _ _
  | disposed head =>
    obtain ⟨u, m, h1, h2⟩ := s.disposeHead_steps _
    exact h2.countersOk (State.countersOk_congr (by simp) (by simp) (by simp) (by simp) (h1.countersOk k'))
  | @sent source sending => cases source <;> exact k'
  | windowExpired => exact (PartStep.windowExpires s _ _).countersOk k'
  | collectionExpired => exact ((CaseStep.collectionExpires s _ _).part.afterReached s).countersOk k'
  | tailExpired => exact (CaseStep.tailExpires s _ _).part.countersOk k'
  | completed flight =>
    obtain ⟨u, h1, h2⟩ := State.completeOperation_steps flight
    rw [h2]
    exact State.countersOk_congr (by simp) (by simp) (by simp) (by simp) (h1.countersOk (by exact k'))
  | actionsSent some => exact s.actionsSent_steps.countersOk (by exact k')

/-! ### The part time and the block range masks -/

theorem PartStep.time {s t : State} (h : PartStep s t) : t.time = s.time := by rw [h.frame]

theorem PartStep.ranges {s t : State} (h : PartStep s t) : t.ranges = s.ranges := by rw [h.frame]

/-- Only SET_TIME's rule touches the part time (R156). -/
theorem RuleStep.time {s u : State} {c : Instr} {a : Response} (h : RuleStep s c u a) :
    u.time = s.time ∨ ∃ v, v < 4294967296 ∧ u.time = ⟨.set, v⟩ := by
  cases h with
  | timeSet bound => exact .inr ⟨_, bound, rfl⟩
  | opened st res accepted free =>
    obtain ⟨-, -, -, -, -, -, -, -, -, -, room⟩ := State.openRefusal_none accepted
    exact .inl ((CaseStep.openAt _ _ room).part.afterReached s).time
  | cancelled => exact .inl (PartStep.cancelAt s _).time
  | reissued => exact .inl (PartStep.reissueAt s _).time
  | softReset =>
    left
    unfold State.softReset State.withdrawNotice
    split <;> rfl
  | stays | released | forced | window | standbyRow | rangeRow | flipped | switching | intercepting | intercepted | counters
  | masks | logCleared => left; simp [State.releaseAt, State.clearCounters]

/-- What a command does to the part time: nothing, one second more, a SET_TIME, or the reset (R154 to R156). -/
theorem CommandStep.time {s t : State} {c : Instr} (h : CommandStep s c t) :
    t.time = s.time ∨ (s.time.clock = .set ∧ s.time.now < 4294967295 ∧ t.time = { s.time with now := s.time.now + 1 })
      ∨ (∃ v, v < 4294967296 ∧ t.time = ⟨.set, v⟩) ∨ (c = .hardReset ∧ t.time = ⟨.unset, 0⟩) := by
  cases h with
  | ruled _ _ rule =>
    rcases rule.time with h | h
    · exact .inl (by simpa using h)
    · exact .inr (.inr (.inl (by simpa using h)))
  | hardReset => exact .inr (.inr (.inr ⟨rfl, rfl⟩))
  | advanced clock below => exact .inr (.inl ⟨clock, below, rfl⟩)
  | refused => exact .inl (by simp)
  | linkDown port => cases port <;> exact .inl rfl
  | linkUp port => cases port <;> exact .inl rfl
  | intakeTaken =>
    obtain ⟨u, rfl, h⟩ := s.takeUpload_cases _
    left
    rcases h with h | ⟨_, _, _, h⟩ <;> rw [h]
    rfl
  | disposed head =>
    obtain ⟨u, m, h1, h2⟩ := s.disposeHead_steps _
    exact .inl (by rw [h2.time, State.markHead_time, h1.time])
  | @sent source _ => cases source <;> exact .inl rfl
  | windowExpired => exact .inl (PartStep.windowExpires s _ _).time
  | collectionExpired => exact .inl ((CaseStep.collectionExpires s _ _).part.afterReached s).time
  | tailExpired => exact .inl (CaseStep.tailExpires s _ _).part.time
  | completed flight =>
    obtain ⟨u, h1, h2⟩ := State.completeOperation_steps flight
    exact .inl (by rw [h2, State.flipIfPending_time, h1.time])
  | actionsSent => exact .inl s.actionsSent_steps.time
  | idle | cleared | dpDiscarded | dpBuffered | dpCounted | dpLogged | cpLogged | cpQueued | cpDropped | intakeDropped
  | dispositionStarted | forwarded | granted | parcelStarted | operationStarted | actionsTaken | noticeBuilt => exact .inl rfl

theorem State.timeOk.exec {c : Instr} {s t : State} (k : s.timeOk) (h : CommandStep s c t) : t.timeOk := by
  unfold State.timeOk at *
  rcases h.time with e | ⟨hc, hb, e⟩ | ⟨v, hv, e⟩ | ⟨-, e⟩ <;> rw [e]
  · exact k
  · exact ⟨by dsimp only; omega, fun hu => by simp [hc] at hu⟩
  · exact ⟨by dsimp only; omega, fun hu => by simp at hu⟩
  · exact ⟨by simp, fun _ => rfl⟩

/-- A row held whole keeps its mask, and a written one has a mask that leads with ones (R151). -/
theorem RangeRow.written_leads {row : RangeRow} (h : maskLeads row.mask = true) (v : RangeValues) :
    maskLeads (row.written v).mask = true := by
  unfold RangeRow.written
  split
  · exact h
  · next hv =>
    simp only [RangeValues.held, Bool.or_eq_true, Bool.not_eq_true', not_or, Bool.not_eq_false] at hv
    exact hv.1.1

/-- Only PUT's rule touches the block ranges (R151). -/
theorem RuleStep.ranges {s u : State} {c : Instr} {a : Response} (h : RuleStep s c u a) :
    u.ranges = s.ranges ∨ ∃ (r : Fin 32) (v : RangeValues), u.ranges = s.ranges.set r (s.ranges[r].written v) := by
  cases h with
  | rangeRow r v => exact .inr ⟨r, v, rfl⟩
  | opened st res accepted free =>
    obtain ⟨-, -, -, -, -, -, -, -, -, -, room⟩ := State.openRefusal_none accepted
    exact .inl ((CaseStep.openAt _ _ room).part.afterReached s).ranges
  | cancelled => exact .inl (PartStep.cancelAt s _).ranges
  | reissued => exact .inl (PartStep.reissueAt s _).ranges
  | softReset =>
    left
    unfold State.softReset State.withdrawNotice
    split <;> rfl
  | stays | released | forced | window | standbyRow | flipped | switching | intercepting | intercepted | counters
  | masks | logCleared | timeSet => left; simp [State.releaseAt, State.clearCounters]

/-- What a command does to the block ranges: nothing, one row written, or the reset values (R150, R151). -/
theorem CommandStep.ranges {s t : State} {c : Instr} (h : CommandStep s c t) :
    t.ranges = s.ranges ∨ (∃ (r : Fin 32) (v : RangeValues), t.ranges = s.ranges.set r (s.ranges[r].written v))
      ∨ t.ranges = Vector.replicate 32 RangeRow.reset := by
  cases h with
  | ruled _ _ rule => simpa using rule.ranges.imp_right Or.inl
  | hardReset | cleared => exact .inr (.inr rfl)
  | refused => exact .inl (by simp)
  | linkDown port => cases port <;> exact .inl rfl
  | linkUp port => cases port <;> exact .inl rfl
  | intakeTaken =>
    obtain ⟨u, rfl, h⟩ := s.takeUpload_cases _
    left
    rcases h with h | ⟨_, _, _, h⟩ <;> rw [h]
    rfl
  | disposed head =>
    obtain ⟨u, m, h1, h2⟩ := s.disposeHead_steps _
    exact .inl (by rw [h2.ranges, State.markHead_ranges, h1.ranges])
  | @sent source _ => cases source <;> exact .inl rfl
  | windowExpired => exact .inl (PartStep.windowExpires s _ _).ranges
  | collectionExpired => exact .inl ((CaseStep.collectionExpires s _ _).part.afterReached s).ranges
  | tailExpired => exact .inl (CaseStep.tailExpires s _ _).part.ranges
  | completed flight =>
    obtain ⟨u, h1, h2⟩ := State.completeOperation_steps flight
    exact .inl (by rw [h2, State.flipIfPending_ranges, h1.ranges])
  | actionsSent => exact .inl s.actionsSent_steps.ranges
  | idle | dpDiscarded | dpBuffered | dpCounted | dpLogged | cpLogged | cpQueued | cpDropped | intakeDropped | advanced
  | dispositionStarted | forwarded | granted | parcelStarted | operationStarted | actionsTaken | noticeBuilt => exact .inl rfl

theorem State.rangesOk.exec {c : Instr} {s t : State} (k : s.rangesOk) (h : CommandStep s c t) : t.rangesOk := by
  intro i
  rcases h.ranges with e | ⟨r, v, e⟩ | e <;> rw [e]
  · exact k i
  · simp only [Fin.getElem_fin, Vector.getElem_set]
    split
    · exact RangeRow.written_leads (k r) v
    · exact k i
  · simp only [Fin.getElem_fin, Vector.getElem_replicate]
    decide

/-- Settles O53: each of the four holds after every command, by what the command does to the fields it speaks of. -/
theorem queuesAndCountersKept : Obligations.QueuesAndCountersKept := by
  intro s t h
  exact ⟨fun k => step_keeps (P := State.queuesOk) (fun _ _ => id) (fun _ _ _ => .exec) k h,
    fun k => step_keeps (P := State.countersOk) (fun _ _ => id) (fun _ _ _ => .exec) k h,
    fun k => step_keeps (P := State.timeOk) (fun _ _ => id) (fun _ _ _ => .exec) k h,
    fun k => step_keeps (P := State.rangesOk) (fun _ _ => id) (fun _ _ _ => .exec) k h⟩

end Sys2Proof.Machine
end

section
/-! PROOFS. What the events of cases keep: an induction principle over what a command can do to the Case Table, the Card Index and the
pool, and with it the soundness of the records, the arrival lists and the index (R1, R6, R7, R57, R59). -/

namespace Sys2Proof.Machine

/-! ### The events of cases -/

/-- The part after CANCEL_CASE has ended a case, and whether a RESTORE left room in the Action Queue (R24). -/
def State.endCase (s : State) (c : Nat) : State × Bool :=
  let t := ((s.withdraw c).1.dropRequest c).placeUnblock c
  (t.setCase c (t.caseAt c).cancelled, (s.withdraw c).2)

theorem State.cancelAt_eq (s : State) (c : Nat) : s.cancelAt c = (endEvent (s.endCase c)).afterReached s := rfl

/-- Two states agree in the Case Table, the Card Index and the pool. -/
structure SameTables (s t : State) : Prop where
  cases : t.cases = s.cases
  index : t.index = s.index
  pool : t.poolFree = s.poolFree

theorem SameTables.refl (s : State) : SameTables s s := ⟨rfl, rfl, rfl⟩

theorem SameTables.trans {s t u : State} (h : SameTables s t) (k : SameTables t u) : SameTables s u :=
  ⟨k.cases.trans h.cases, k.index.trans h.index, k.pool.trans h.pool⟩

theorem SameTables.caseAt {s t : State} (h : SameTables s t) (c : Nat) : t.caseAt c = s.caseAt c := State.caseAt_congr h.cases c

theorem SameTables.tableOk {s t : State} (h : SameTables s t) (k : s.tableOk) : t.tableOk := by
  unfold State.tableOk; rw [h.cases]; exact k

theorem SameTables.finish (s : State) (code : Byte) (a : Response) : SameTables s (s.finish code a) := ⟨by simp, by simp, by simp⟩

theorem SameTables.markHead (s : State) (m : Mark) : SameTables s (s.markHead m) := ⟨by simp, by simp, by simp⟩

/-- What a predicate of the Case Table, the Card Index and the pool must be kept by, to be kept by the events of cases: each event
of one live case, and the service of one owing case. -/
structure KeptByEvents (P : State → Prop) : Prop where
  table : ∀ {s}, P s → s.tableOk
  same : ∀ {s t}, SameTables s t → P s → P t
  attach : ∀ {s c}, P s → (s.caseAt c).state ≠ .free → ∀ a, P (s.attach c a).1
  collect : ∀ {s c}, P s → (s.caseAt c).state ≠ .free → ∀ card ref amount mask device,
    P (s.takeCollection c card ref amount mask device).1.1
  complete : ∀ {s}, P s → ∀ op, (s.caseAt op.caseNo).state ≠ .free → op.mode.applies (s.caseAt op.caseNo) = true →
    P (s.completeBy op).1
  reissue : ∀ {s c}, P s → (s.caseAt c).state = .lapsed →
    P ((s.setCase c { s.caseAt c with state := .issued }).reconcile c false).1
  expire : ∀ {s c}, P s → (s.caseAt c).state ≠ .free → P (s.expire c (s.caseAt c))
  serve : ∀ {s c}, P s → (s.caseAt c).state ≠ .free → P (s.serveCase c)

section

variable {P : State → Prop} (k : KeptByEvents P)

include k

theorem KeptByEvents.serveCases : ∀ (cs : List Nat) {s : State}, P s → P (s.serveCases cs) := by
  intro cs
  induction cs with
  | nil => exact fun h => h
  | cons c cs ih =>
    intro s h
    unfold State.serveCases
    split
    · next hs => exact ih (k.serve h (State.servable_live (k.table h) hs))
    · exact ih h

theorem KeptByEvents.endEvent {o : State × Bool} (h : P o.1) : P (endEvent o) := by
  unfold Machine.endEvent
  split
  · exact k.serveCases _ h
  · exact h

theorem KeptByEvents.afterReached {s : State} (before : State) (h : P s) : P (s.afterReached before) :=
  State.afterReached_keeps h fun _ _ h hc => k.expire h (State.reachedSince_live (k.table h) hc)

/-- Every disposition of a record is an event of one live case, or none (R41). -/
theorem KeptByEvents.dispose {s : State} (h : P s) (raw : List Byte) (stamp : Nat) : P (s.dispose raw stamp).1.1 := by
  have log : ∀ c b d x, P (s.logException c b d x) := fun c b d x => k.same (s := s) ⟨rfl, rfl, rfl⟩ h
  unfold State.dispose
  split
  · exact h
  · dsimp only
    split
    · next c _ =>
      unfold State.disposeOld
      dsimp only
      split
      case h_6 => split; exacts [log _ _ _ _, h]
      case h_7 | h_8 => exact h
      all_goals
        next hs => exact k.attach h (by rw [hs]; decide) _
    · next c _ =>
      unfold State.disposeNew
      split
      · by_cases hn : (s.caseAt c).state = .free
        · unfold State.takeCollection
          rw [(k.table h).free_eq hn, collectionRow_freeWith]
          exact log _ _ _ _
        · exact k.collect h hn _ _ _ _ _
      · exact h
    · unfold State.disposeOther
      split
      · exact h
      · split
        · split
          · exact h
          · exact log _ _ _ _
        · exact h

theorem KeptByEvents.disposeHead {s : State} (h : P s) (r : IntakeRecord) : P (s.disposeHead r) :=
  k.afterReached s (k.endEvent (k.same (.markHead _ _) (k.dispose h r.raw r.stamp)))

theorem KeptByEvents.completeOperation {s : State} (h : P s) : P s.completeOperation := by
  unfold State.completeOperation
  split
  · exact h
  · next op _ =>
    have h' : P { s with settle := { s.settle with inFlight := none } } := k.same (s := s) ⟨rfl, rfl, rfl⟩ h
    have flip : ∀ {u : State}, P u → P u.flipIfPending := fun {u} hu => k.same (s := u) ⟨by simp, by simp, by simp⟩ hu
    refine flip (k.afterReached s (k.endEvent ?_))
    unfold State.complete
    dsimp only
    split
    · exact h'
    · next hf =>
      split
      · exact h'
      · next ha =>
        split
        · exact k.same ⟨by simp, by simp, by simp⟩ h'
        · exact k.complete h' op (fun e => hf (.inl e)) (by simpa using ha)

end

/-- The record of a case that is listed as due. -/
theorem State.dueOf_caseAt {s : State} (hw : s.tableOk) {kind : DeadlineKind} {c : Nat} {r : CaseRecord}
    (h : s.dueOf kind = some (c, r)) :
    s.caseAt c = r ∧ (s.caseAt c).state ≠ .free ∧ r.deadline.map Deadline.kind = some kind ∧ r.isDue s.time.now = true := by
  obtain ⟨hm, hd, hk⟩ := State.dueOf_spec h
  have e : s.caseAt c = r := tableGet_of_mem hw.1.1 hm
  refine ⟨e, fun hf => ?_, hk, hd⟩
  rw [← e, hw.free_eq hf] at hk
  simp [CaseRecord.freeWith] at hk

/-- What one command does to the Case Table, the Card Index and the pool: events of cases; a case opened or released; or a reset. -/
theorem CommandStep.case_events {P : State → Prop} (k : KeptByEvents P) {c : Instr} {s t : State} (hs : P s)
    (cancel : ∀ n, (s.caseAt n).cancellable = true → P (s.endCase n).1) (h : CommandStep s c t) :
    P t
    ∨ (c = .openCase ∧ ∃ n a, s.openRefusal a = none ∧ s.lowestFree = some n ∧ SameTables ((s.openAt n a).afterReached s) t)
    ∨ (c = .releaseCase ∧ ∃ n, ((s.caseAt n).state = .closed ∨ (s.caseAt n).state = .cancelled) ∧ SameTables (s.releaseAt n) t)
    ∨ ((c = .hardReset ∨ c = .initializationEnd) ∧ SameTables State.reset t) := by
  have same : SameTables s t → P t := fun e => k.same e hs
  have hw := k.table hs
  cases h with
  | ruled _ _ rule =>
    have fin := fun u code a (h : P u) => k.same (SameTables.finish u code a) h
    cases rule with
    | opened st res accepted free => exact .inr (.inl ⟨rfl, _, _, accepted, free, .finish _ _ _⟩)
    | released st ended => exact .inr (.inr (.inl ⟨rfl, _, ended, .finish _ _ _⟩))
    | cancelled st live taken => exact .inl (fin _ _ _ (k.afterReached s (k.endEvent (cancel _ taken))))
    | reissued st lapsed => exact .inl (fin _ _ _ (k.afterReached s (k.endEvent (k.reissue hs lapsed))))
    | softReset =>
      refine .inl (fin _ _ _ (k.same ?_ hs))
      unfold State.softReset State.withdrawNotice
      split <;> exact ⟨rfl, rfl, rfl⟩
    | stays | forced | window | standbyRow | rangeRow | flipped | switching | intercepting | intercepted | timeSet | counters
    | masks | logCleared => exact .inl (fin _ _ _ (k.same ⟨by simp [State.clearCounters], by simp [State.clearCounters], by simp [State.clearCounters]⟩ hs))
  | hardReset => exact .inr (.inr (.inr ⟨.inl rfl, rfl, rfl, rfl⟩))
  | cleared => exact .inr (.inr (.inr ⟨.inr rfl, rfl, rfl, rfl⟩))
  | disposed => exact .inl (k.disposeHead hs _)
  | completed => exact .inl (k.completeOperation hs)
  | actionsSent =>
    exact .inl (k.afterReached s (k.serveCases _
      (k.same (s := s) (t := { s with actions := { s.actions with taken := [], seq := s.actions.seq + 1 } }) ⟨rfl, rfl, rfl⟩ hs)))
  | @windowExpired n r due =>
    obtain ⟨rfl, live, hk, -⟩ := State.dueOf_caseAt hw due
    have := k.expire hs live
    unfold State.expire at this
    rw [hk] at this
    exact .inl this
  | @collectionExpired n r due =>
    obtain ⟨rfl, live, hk, -⟩ := State.dueOf_caseAt hw due
    have := k.expire hs live
    unfold State.expire at this
    rw [hk] at this
    exact .inl (k.afterReached s this)
  | @tailExpired n r due =>
    obtain ⟨rfl, live, hk, -⟩ := State.dueOf_caseAt hw due
    have := k.expire hs live
    unfold State.expire at this
    rw [hk] at this
    exact .inl this
  | linkDown port => cases port <;> exact .inl (same ⟨rfl, rfl, rfl⟩)
  | linkUp port => cases port <;> exact .inl (same ⟨rfl, rfl, rfl⟩)
  | intakeTaken =>
    obtain ⟨u, rfl, h⟩ := s.takeUpload_cases _
    left
    rcases h with h | ⟨_, _, _, h⟩ <;> rw [h] <;> exact k.same (s := s) ⟨rfl, rfl, rfl⟩ hs
  | @sent source _ => cases source <;> exact .inl (same ⟨rfl, rfl, rfl⟩)
  | refused => exact .inl (same ⟨by simp, by simp, by simp⟩)
  | idle | dpDiscarded | dpBuffered | dpCounted | dpLogged | cpLogged | cpQueued | cpDropped | intakeDropped | advanced
  | dispositionStarted | forwarded | granted | parcelStarted | operationStarted | actionsTaken | noticeBuilt =>
    exact .inl (same ⟨rfl, rfl, rfl⟩)

/-! ### The frames of the events of cases -/

theorem State.endCase_part (s : State) (c : Nat) : PartStep s (s.endCase c).1 :=
  (((CaseStep.withdraw s c).part.trans (.dropRequest _ c)).trans (CaseStep.placeUnblock _ c).part).trans (CaseStep.setCase _ c _).part

theorem PartStep.index {s t : State} (h : PartStep s t) : t.index = s.index := by rw [h.frame]

theorem CaseStep.poolFree {s t : State} (h : CaseStep s t) : t.poolFree = s.poolFree := by rw [h.frame]

theorem State.takeCollection_poolFree (s : State) (c : Nat) (card : CardId) (ref : Ref) (amount : Int) (mask : BitVec 4)
    (device : DeviceId) : (s.takeCollection c card ref amount mask device).1.1.poolFree = s.poolFree := by
  unfold State.takeCollection State.collection State.staleCollection
  dsimp only
  split
  · rfl
  · rw [(CaseStep.reconcile _ c false).poolFree]
    split
    · rfl
    · split <;> rfl
  · exact (CaseStep.reconcile _ c false).poolFree

theorem State.expire_poolFree (s : State) (c : Nat) (r : CaseRecord) : (s.expire c r).poolFree = s.poolFree := by
  unfold State.expire
  split
  · simp [State.windowExpires]
  · exact (CaseStep.collectionExpires s c r).poolFree
  · exact (CaseStep.tailExpires s c r).poolFree
  · rfl

theorem State.endCase_poolFree (s : State) (c : Nat) : (s.endCase c).1.poolFree = s.poolFree :=
  (CaseStep.setCase _ c _).poolFree.trans ((CaseStep.placeUnblock _ c).poolFree.trans (CaseStep.withdraw s c).poolFree)

theorem CaseRecord.live_of_cancellable {r : CaseRecord} (h : r.cancellable = true) : r.state ≠ .free := by
  intro hf
  simp [CaseRecord.cancellable, hf] at h

theorem RecordStep.endCase {s : State} (hw : s.tableOk) {c : Nat} (hn : (s.caseAt c).state ≠ .free) :
    RecordStep s (s.endCase c).1 := by
  have h1 := RecordStep.withdraw hw hn
  have h2 := h1.trans (.of_cases (t := (s.withdraw c).1.dropRequest c) h1.table rfl)
  have h3 := h2.trans (.placeUnblock h2.table (h2.live hn))
  exact h3.trans (.setCase h3.table (h3.live hn) (.live (h3.live hn) (by simp [CaseRecord.cancelled]) rfl rfl rfl rfl))

theorem RecordStep.reissue {s : State} (hw : s.tableOk) {c : Nat} (hl : (s.caseAt c).state = .lapsed) :
    RecordStep s ((s.setCase c { s.caseAt c with state := .issued }).reconcile c false).1 := by
  have hn : (s.caseAt c).state ≠ .free := by rw [hl]; decide
  have h1 := RecordStep.setCase hw hn (r := { s.caseAt c with state := .issued }) (.live hn (by simp) rfl rfl rfl rfl)
  exact h1.trans (.reconcile h1.table (h1.live hn) false)

/-! ### A case opened and a case released -/

/-- The record that OPEN_CASE writes is the number's own; no other changes (R12). -/
theorem State.caseAt_openAt {s : State} (hw : s.tableOk) (c : Nat) (a : OpenArgs) (j : Nat) :
    (s.openAt c a).caseAt j =
      if j = c then openedRecord (s.caseAt c).inst a (s.activeRow a.operator) s.time.now else s.caseAt j := by
  have e : (s.openAt c a).caseAt j =
      (s.setCase c (openedRecord (s.caseAt c).inst a (s.activeRow a.operator) s.time.now)).caseAt j := State.caseAt_congr rfl j
  rw [e]
  split
  · next h => subst h; exact State.caseAt_setCase_same s hw.1 j _
  · next h => exact State.caseAt_setCase_other s h _

theorem State.openAt_tableOk {s : State} (hw : s.tableOk) {c : Nat} (hc : c < 2048) (a : OpenArgs) : (s.openAt c a).tableOk :=
  State.setCase_tableOk hw hc (r := openedRecord (s.caseAt c).inst a (s.activeRow a.operator) s.time.now)
    (fun h => by simp [openedRecord] at h)

theorem State.caseAt_releaseAt {s : State} (hw : s.tableOk) (c j : Nat) :
    (s.releaseAt c).caseAt j = if j = c then CaseRecord.freeWith (s.caseAt c).inst else s.caseAt j := by
  have e : (s.releaseAt c).caseAt j = (s.setCase c (CaseRecord.freeWith (s.caseAt c).inst)).caseAt j := State.caseAt_congr rfl j
  rw [e]
  split
  · next h => subst h; exact State.caseAt_setCase_same s hw.1 j _
  · next h => exact State.caseAt_setCase_other s h _

theorem State.releaseAt_tableOk {s : State} (hw : s.tableOk) {c : Nat} (hn : (s.caseAt c).state ≠ .free) :
    (s.releaseAt c).tableOk :=
  State.setCase_tableOk hw (hw.live_lt hn) (r := CaseRecord.freeWith (s.caseAt c).inst) (fun _ => rfl)

theorem State.reset_tableOk : State.reset.tableOk := ⟨reset_tableWf, by simp [State.reset], by simp [State.reset]⟩

/-! ### O54: the records stay sound -/

/-- A case cancelled keeps its record sound: nothing is outstanding, and no deadline runs (R24). -/
theorem State.casesOk.endCase {s : State} (h : s.tableOk ∧ s.casesOk) {c : Nat} (hc : (s.caseAt c).cancellable = true) :
    (s.endCase c).1.tableOk ∧ (s.endCase c).1.casesOk := by
  have hn := CaseRecord.live_of_cancellable hc
  have r1 := RecordStep.withdraw h.1 hn
  have c1 := h.2.withdraw h.1 hn
  have r2 := r1.trans (.of_cases (t := (s.withdraw c).1.dropRequest c) r1.table rfl)
  have c2 : ((s.withdraw c).1.dropRequest c).casesOk := c1.congr rfl
  have c3 := c2.placeUnblock (r2.live hn)
  refine ⟨(RecordStep.endCase h.1 hn).table, c3.setCase c ?_⟩
  have w := State.withdraw_caseAt h.1 (c := c)
  have e : ∀ t : State, t = ((s.withdraw c).1.dropRequest c).placeUnblock c →
      (t.caseAt c).outstanding = none ∧ (t.caseAt c).flags.issueOwed = false := by
    intro t ht
    subst ht
    unfold State.placeUnblock
    dsimp only
    split
    · exact ⟨w.1, w.2.1⟩
    · rw [State.caseAt_setCase_same _ r2.table.1]
      exact ⟨w.1, w.2.1⟩
  obtain ⟨ho, hi⟩ := e _ rfl
  exact { c3.at c with
    free := fun k => by simp [CaseRecord.cancelled] at k
    deadline := fun d k => by simp [CaseRecord.cancelled] at k
    outstanding := fun o k => by simp [CaseRecord.cancelled, ho] at k
    owed := fun k => by simp [CaseRecord.cancelled, hi] at k
    collecting := fun k => by simp [CaseRecord.cancelled] at k }

/-- An event of a case that keeps the table keeps it with the soundness of its records. -/
theorem keptByEvents_casesOk : KeptByEvents (fun s => s.tableOk ∧ s.casesOk) where
  table := And.left
  same := fun e h => ⟨e.tableOk h.1, h.2.congr e.cases⟩
  attach := fun h hn a => ⟨(AttachStep.attach h.1 hn a).table, State.casesOk.attach h.1 h.2 _ a hn⟩
  collect := fun h hn card ref amount mask device =>
    ⟨(RecordStep.takeCollection h.1 _ hn card ref amount mask device).table, h.2.takeCollection h.1 _ hn card ref amount mask device⟩
  complete := fun h op hn ha => ⟨(RecordStep.completeBy h.1 op hn).table, h.2.completeBy h.1 op ha hn⟩
  reissue := by
    intro s c h hl
    have hn : (s.caseAt c).state ≠ .free := by rw [hl]; decide
    have hr := h.2.at c
    have hno := hr.none_outstanding (by rw [hl]; decide)
    have r1 := RecordStep.setCase h.1 hn (r := { s.caseAt c with state := .issued }) (.live hn (by simp) rfl rfl rfl rfl)
    refine ⟨(RecordStep.reissue h.1 hl).table, (h.2.setCase c ?_).reconcile r1.table (r1.live hn) false⟩
    exact { hr with
      free := fun k => by simp at k
      deadline := fun d k => by
        have := (hr.deadline d k).1
        rw [hl] at this
        cases hd : d.kind <;> simp [hd, DeadlineKind.belongsTo] at this
      outstanding := fun o k => by simp [hno.1] at k
      collecting := fun k => by simp at k }
  expire := fun h hn => ⟨(RecordStep.expire h.1 hn).table, h.2.expire h.1 hn⟩
  serve := fun h hn => ⟨(RecordStep.serveCase h.1 hn).table, h.2.serveCase h.1 hn⟩

theorem openedRecord_lifeOk (inst : BitVec 8) (a : OpenArgs) (row : OperatorRow) (now : Nat) :
    (openedRecord inst a row now).lifeOk :=
  { CaseRecord.freeWith_lifeOk (inst + 1) with
    free := fun k => by simp [openedRecord] at k
    deadline := fun d k => by
      simp only [openedRecord, Option.some.injEq] at k
      subst k
      exact ⟨rfl, deadlineAt_due _ _⟩
    outstanding := fun o k => by simp [openedRecord, CaseRecord.freeWith] at k
    collecting := fun _ => rfl }

theorem State.casesOk.step {s t : State} {c : Instr} (k : s.tableOk ∧ s.casesOk) (h : CommandStep s c t) :
    t.tableOk ∧ t.casesOk := by
  rcases h.case_events keptByEvents_casesOk k (fun _ => State.casesOk.endCase k) with h | ⟨-, n, a, -, hl, e⟩ | ⟨-, n, hn, e⟩ | ⟨-, e⟩
  · exact h
  · obtain ⟨hlt, -, -⟩ := State.lowestFree_spec hl
    refine keptByEvents_casesOk.same e (keptByEvents_casesOk.afterReached s ⟨State.openAt_tableOk k.1 hlt a, ?_⟩)
    exact State.casesOk.congr (s := s.setCase n _) (k.2.setCase n (openedRecord_lifeOk _ _ _ _)) rfl
  · have hn' : (s.caseAt n).state ≠ .free := by rcases hn with h | h <;> rw [h] <;> decide
    refine keptByEvents_casesOk.same e ⟨State.releaseAt_tableOk k.1 hn', ?_⟩
    exact State.casesOk.congr (s := s.setCase n _) (k.2.setCase n (CaseRecord.freeWith_lifeOk _)) rfl
  · exact keptByEvents_casesOk.same e ⟨State.reset_tableOk, by simp [State.casesOk, State.reset]⟩

/-- Settles O54: every event of a case keeps its record sound, and so do opening, release and the resets. -/
theorem caseRecordsKept : Obligations.CaseRecordsKept := by
  intro s t hw hc h
  exact step_keeps (P := fun s => s.tableOk ∧ s.casesOk) (fun _ _ => id) (fun _ _ _ => State.casesOk.step) ⟨hw, hc⟩ h

/-! ### O55: the arrival lists and the pool -/

/-- Every record of a pool in order has a list as R59 gives it. -/
theorem State.poolOk.listOk {s : State} (h : s.poolOk) (c : Nat) : (s.caseAt c).listOk :=
  tableGet_all (p := CaseRecord.listOk) (by simp [CaseRecord.listOk, CaseRecord.reset, CaseRecord.freeWith]) h.2.1 c

/-- What keeps the records' lists and the free slots keeps the pool. -/
theorem RecordStep.poolOk {s t : State} (h : RecordStep s t) (hp : t.poolFree = s.poolFree) (k : s.poolOk) : t.poolOk := by
  refine ⟨h.table, fun e he => ?_, by rw [h.slots, hp]; exact k.2.2⟩
  have e' : t.caseAt e.1 = e.2 := tableGet_of_mem h.table.1.1 he
  have := k.listOk e.1
  have same := h.same e.1
  rw [e'] at same
  unfold CaseRecord.listOk at *
  rwa [same.arrivals, same.baseline]

theorem SameTables.poolOk {s t : State} (h : SameTables s t) (k : s.poolOk) : t.poolOk :=
  (RecordStep.of_cases k.1 h.cases).poolOk h.pool k

theorem keptByEvents_poolOk : KeptByEvents State.poolOk where
  table := And.left
  same := fun e h => e.poolOk h
  attach := fun h hn a => (AttachStep.attach h.1 hn a).pool h
  collect := fun h hn card ref amount mask device =>
    (RecordStep.takeCollection h.1 _ hn card ref amount mask device).poolOk (State.takeCollection_poolFree _ _ _ _ _ _ _) h
  complete := fun h op hn _ => (RecordStep.completeBy h.1 op hn).poolOk (CaseStep.completeBy _ op).poolFree h
  reissue := fun h hl => (RecordStep.reissue h.1 hl).poolOk (CaseStep.reconcile _ _ false).poolFree h
  expire := fun h hn => (RecordStep.expire h.1 hn).poolOk (State.expire_poolFree _ _ _) h
  serve := fun h hn => (RecordStep.serveCase h.1 hn).poolOk (CaseStep.serveCase _ _).poolFree h

theorem State.poolOk.endCase {s : State} (h : s.poolOk) {c : Nat} (hc : (s.caseAt c).cancellable = true) : (s.endCase c).1.poolOk :=
  (RecordStep.endCase h.1 (CaseRecord.live_of_cancellable hc)).poolOk (State.endCase_poolFree _ _) h

/-- A record written with an empty list gives its slots back. -/
theorem State.poolOk.setEmpty {s t : State} (k : s.poolOk) {c : Nat} {r : CaseRecord} (ht : t.tableOk)
    (hc : t.cases = (s.setCase c r).cases) (he : r.arrivals = []) (hp : t.poolFree = s.poolFree + (s.caseAt c).arrivals.length) :
    t.poolOk := by
  refine ⟨ht, fun e hm => ?_, ?_⟩
  · rw [hc] at hm
    rcases mem_tableSet hm with rfl | hm
    · simp [CaseRecord.listOk, he]
    · exact k.2.1 e hm
  · have h1 := State.setCase_slots k.1 c r
    have h2 : t.slotsInUse = (s.setCase c r).slotsInUse := by unfold State.slotsInUse; rw [hc]
    have h3 := k.2.2
    simp only [he, List.length_nil] at h1
    omega

theorem State.poolOk.step {s t : State} {c : Instr} (k : s.poolOk) (h : CommandStep s c t) : t.poolOk := by
  rcases h.case_events keptByEvents_poolOk k (fun _ => k.endCase) with h | ⟨-, n, a, -, hl, e⟩ | ⟨-, n, hn, e⟩ | ⟨-, e⟩
  · exact h
  · obtain ⟨hlt, hf, -⟩ := State.lowestFree_spec hl
    refine e.poolOk (keptByEvents_poolOk.afterReached s ?_)
    refine State.poolOk.setEmpty k (State.openAt_tableOk k.1 hlt a) rfl rfl ?_
    rw [k.1.free_eq hf]; rfl
  · have hn' : (s.caseAt n).state ≠ .free := by rcases hn with h | h <;> rw [h] <;> decide
    exact e.poolOk (State.poolOk.setEmpty k (State.releaseAt_tableOk k.1 hn') rfl rfl rfl)
  · exact e.poolOk ⟨State.reset_tableOk, by simp [State.reset], by simp [State.reset, State.slotsInUse, Config.poolSlots]⟩

/-- Settles O55: only attachment, opening and release touch a list, and each accounts for the slots it takes or returns. -/
theorem arrivalPoolKept : Obligations.ArrivalPoolKept := by
  intro s t hs h
  exact step_keeps (P := State.poolOk) (fun _ _ => id) (fun _ _ _ => State.poolOk.step) hs h

/-! ### O56: the Card Index -/

/-- The index holds of each case what the records hold, so that a step which keeps states and cards keeps it. -/
theorem State.indexOk.of_cards {s t : State} (k : s.indexOk) (ht : t.tableOk) (hi : t.index = s.index)
    (free : ∀ c, (t.caseAt c).state = .free ↔ (s.caseAt c).state = .free)
    (cards : ∀ c role, (t.caseAt c).cardIn role = (s.caseAt c).cardIn role) : t.indexOk := by
  obtain ⟨-, hord, hlisted, hstanding⟩ := k
  refine ⟨ht, by rwa [hi], fun e he => ?_, fun c role hn => ?_⟩
  · rw [hi] at he
    obtain ⟨h1, h2, h3⟩ := hlisted e he
    exact ⟨h1, fun hf => h2 ((free _).mp hf), by rw [cards]; exact h3⟩
  · rw [cards, hi]
    exact hstanding c role fun hf => hn ((free c).mpr hf)

theorem SameCase.cardIn {r r' : CaseRecord} (h : SameCase r r') (role : CardRole) : r'.cardIn role = r.cardIn role := by
  cases role
  · exact h.oldCard
  · exact h.newCard

theorem RecordStep.indexOk {s t : State} (h : RecordStep s t) (hi : t.index = s.index) (k : s.indexOk) : t.indexOk :=
  k.of_cards h.table hi (fun c => (h.same c).free) fun c role => (h.same c).cardIn role

theorem AttachStep.indexOk {c : Nat} {s t : State} (h : AttachStep c s t) (hi : t.index = s.index) (k : s.indexOk) : t.indexOk := by
  refine k.of_cards h.table hi (fun j => ?_) fun j role => ?_
  · by_cases hj : j = c
    · subst hj; rw [h.free]
    · rw [h.other j hj]
  · by_cases hj : j = c
    · subst hj
      cases role
      · exact h.oldCard
      · exact h.newCard
    · rw [h.other j hj]

theorem SameTables.indexOk {s t : State} (h : SameTables s t) (k : s.indexOk) : t.indexOk :=
  (RecordStep.of_cases k.1 h.cases).indexOk h.index k

theorem keptByEvents_indexOk : KeptByEvents State.indexOk where
  table := And.left
  same := fun e h => e.indexOk h
  attach := fun h hn a => (AttachStep.attach h.1 hn a).indexOk (PartStep.attach _ _ _).index h
  collect := fun h hn card ref amount mask device =>
    (RecordStep.takeCollection h.1 _ hn card ref amount mask device).indexOk (PartStep.takeCollection _ _ _ _ _ _ _).index h
  complete := fun h op hn _ => (RecordStep.completeBy h.1 op hn).indexOk (CaseStep.completeBy _ op).part.index h
  reissue := fun {s c} h hl =>
    (RecordStep.reissue h.1 hl).indexOk ((CaseStep.setCase s c _).trans (CaseStep.reconcile _ c false)).part.index h
  expire := fun h hn => (RecordStep.expire h.1 hn).indexOk (PartStep.expire _ _ _).index h
  serve := fun h hn => (RecordStep.serveCase h.1 hn).indexOk (CaseStep.serveCase _ _).part.index h

theorem State.indexOk.endCase {s : State} (h : s.indexOk) {c : Nat} (hc : (s.caseAt c).cancellable = true) : (s.endCase c).1.indexOk :=
  (RecordStep.endCase h.1 (CaseRecord.live_of_cancellable hc)).indexOk (State.endCase_part _ _).index h

theorem mem_indexInsert {l : List IndexEntry} {e x : IndexEntry} : x ∈ indexInsert l e ↔ x = e ∨ x ∈ l := by
  induction l with
  | nil => simp [indexInsert]
  | cons y l ih =>
    simp only [indexInsert]
    split
    · simp
    · simp only [List.mem_cons, ih]
      constructor
      · rintro (h | h | h) <;> simp [h]
      · rintro (h | h | h) <;> simp [h]

/-- An entry placed by a card that no other holds keeps the order (R6). -/
theorem indexInsert_ascending {l : List IndexEntry} {e : IndexEntry} (h : l.Pairwise (fun a b => a.card.toNat < b.card.toNat))
    (hn : ∀ x ∈ l, x.card ≠ e.card) : (indexInsert l e).Pairwise (fun a b => a.card.toNat < b.card.toNat) := by
  induction l with
  | nil => simp [indexInsert]
  | cons y l ih =>
    have hy := List.pairwise_cons.mp h
    simp only [indexInsert]
    split
    · next hlt =>
      refine List.pairwise_cons.mpr ⟨fun x hx => ?_, h⟩
      rcases List.mem_cons.mp hx with rfl | hx
      · exact hlt
      · exact hlt.trans (hy.1 x hx)
    · next hge =>
      refine List.pairwise_cons.mpr ⟨fun x hx => ?_, ih hy.2 fun x hx => hn x (List.mem_cons_of_mem _ hx)⟩
      rcases mem_indexInsert.mp hx with rfl | hx
      · have : y.card.toNat ≠ x.card.toNat := fun e => hn y (List.mem_cons_self ..) (BitVec.eq_of_toNat_eq e)
        omega
      · exact hy.1 x hx

theorem State.lookup_eq_none_iff {s : State} {card : CardId} : s.lookup card = none ↔ ∀ e ∈ s.index, e.card ≠ card := by
  simp [State.lookup, List.find?_eq_none]

/-- OPEN_CASE adds both cards of a case that was FREE, neither of them in the index (R7, R9). -/
theorem State.indexOk.openAt {s : State} (k : s.indexOk) {n : Nat} {a : OpenArgs} (hl : s.lowestFree = some n)
    (ha : s.openRefusal a = none) : (s.openAt n a).indexOk := by
  obtain ⟨hlt, hf, -⟩ := State.lowestFree_spec hl
  obtain ⟨-, -, -, -, -, hdiff, hold, hnew, -, -, -⟩ := State.openRefusal_none ha
  rw [State.lookup_eq_none_iff] at hold hnew
  obtain ⟨hw, hord, hlisted, hstanding⟩ := k
  have hcase := State.caseAt_openAt hw n a
  have hmem : ∀ e, e ∈ (s.openAt n a).index ↔ e = ⟨a.newCard, n, .new⟩ ∨ e = ⟨a.oldCard, n, .old⟩ ∨ e ∈ s.index := by
    intro e
    show e ∈ indexInsert (indexInsert s.index _) _ ↔ _
    rw [mem_indexInsert, mem_indexInsert]
  refine ⟨State.openAt_tableOk hw hlt a, ?_, fun e he => ?_, fun c role hn => ?_⟩
  · refine indexInsert_ascending (indexInsert_ascending hord hold) fun x hx => ?_
    rcases mem_indexInsert.mp hx with rfl | hx
    · exact hdiff
    · exact hnew x hx
  · rw [hmem] at he
    rcases he with rfl | rfl | he
    · simp [hcase, openedRecord, CaseRecord.cardIn, hlt]
    · simp [hcase, openedRecord, CaseRecord.cardIn, hlt]
    · obtain ⟨h1, h2, h3⟩ := hlisted e he
      have hne : e.caseNo ≠ n := fun h => h2 (h ▸ hf)
      rw [hcase, if_neg hne]
      exact ⟨h1, h2, h3⟩
  · rw [hmem]
    rw [hcase] at hn ⊢
    split
    · next h =>
      subst h
      cases role
      · exact .inr (.inl rfl)
      · exact .inl rfl
    · next h =>
      rw [if_neg h] at hn
      exact .inr (.inr (hstanding c role hn))

/-- RELEASE_CASE removes the entries of its case and of no other (R7, R25). -/
theorem State.indexOk.releaseAt {s : State} (k : s.indexOk) {n : Nat} (hn : (s.caseAt n).state ≠ .free) :
    (s.releaseAt n).indexOk := by
  obtain ⟨hw, hord, hlisted, hstanding⟩ := k
  have hcase := State.caseAt_releaseAt hw n
  refine ⟨State.releaseAt_tableOk hw hn, hord.sublist List.filter_sublist, fun e he => ?_, fun c role hc => ?_⟩
  · obtain ⟨he, hne⟩ := List.mem_filter.mp he
    have hne : e.caseNo ≠ n := by simpa using hne
    rw [hcase, if_neg hne]
    exact hlisted e he
  · by_cases h : c = n
    · subst h
      rw [hcase, if_pos rfl] at hc
      exact absurd rfl hc
    · rw [hcase, if_neg h] at hc ⊢
      exact List.mem_filter.mpr ⟨hstanding c role hc, by simpa using h⟩

theorem State.reset_indexOk : State.reset.indexOk :=
  ⟨State.reset_tableOk, by simp [State.reset], by simp [State.reset], fun _ _ hn => absurd rfl hn⟩

theorem State.indexOk.step {s t : State} {c : Instr} (k : s.indexOk) (h : CommandStep s c t) : t.indexOk := by
  rcases h.case_events keptByEvents_indexOk k (fun _ => k.endCase) with h | ⟨-, n, a, ha, hl, e⟩ | ⟨-, n, hn, e⟩ | ⟨-, e⟩
  · exact h
  · exact e.indexOk (keptByEvents_indexOk.afterReached s (k.openAt hl ha))
  · exact e.indexOk (k.releaseAt (by rcases hn with h | h <;> rw [h] <;> decide))
  · exact e.indexOk State.reset_indexOk

/-- Settles O56: the cards of a case change only when it is opened or released, and then the index changes with them. -/
theorem cardIndexKept : Obligations.CardIndexKept := by
  intro s t hs h
  exact step_keeps (P := State.indexOk) (fun _ _ => id) (fun _ _ _ => State.indexOk.step) hs h

end Sys2Proof.Machine
end

section
/-! PROOFS. The lives of case records (O59) and the agreement of an outstanding action with what its case desires (O58): what each
event of a case does to its record, state by state of Table 1-3. -/

namespace Sys2Proof.Machine

/-! ### How a record goes on -/

/-- A case that can still be worked on: neither FREE, nor CLOSED, nor CANCELLED. -/
def CaseState.active (s : CaseState) : Prop := s = .collecting ∨ s = .held ∨ s = .issued ∨ s = .lapsed ∨ s = .collected

/-- The states a case that is not cancelled moves through within one command; unlike `CaseState.goesTo`, closed under composition. -/
def CaseState.movesTo (s t : CaseState) : Prop :=
  t = s ∨ (s.active ∧ (t = .held ∨ t = .issued ∨ t = .lapsed ∨ t = .collected ∨ t = .closed))

theorem CaseState.movesTo.refl (s : CaseState) : s.movesTo s := .inl rfl

theorem CaseState.movesTo.trans {s t u : CaseState} (h : s.movesTo t) (k : t.movesTo u) : s.movesTo u := by
  rcases h with rfl | ⟨hs, ht⟩
  · exact k
  · rcases k with rfl | ⟨-, hu⟩
    · exact .inr ⟨hs, ht⟩
    · exact .inr ⟨hs, hu⟩

theorem CaseState.movesTo.goesTo {s t : CaseState} (h : s.movesTo t) (hs : s ≠ .free) : s.goesTo t := by
  unfold CaseState.goesTo
  rcases h with rfl | ⟨ha, ht⟩
  · left
    cases t <;> simp_all [CaseState.leadsTo]
  · rcases ha with rfl | rfl | rfl | rfl | rfl <;> rcases ht with rfl | rfl | rfl | rfl | rfl <;> simp [CaseState.leadsTo]

theorem CaseState.goesTo_cancelled {r : CaseRecord} (h : r.cancellable = true) : r.state.goesTo .cancelled := by
  unfold CaseRecord.cancellable at h
  unfold CaseState.goesTo
  cases hs : r.state <;> simp_all [CaseState.leadsTo]

/-- One record goes on to another, their states aside. -/
def CaseRecord.carriesOn (r r' : CaseRecord) : Prop :=
  CaseRecord.goesOn { r with state := .closed } { r' with state := .closed }

theorem CaseRecord.carriesOn.goesOn {r r' : CaseRecord} (h : r.carriesOn r') (k : r.state.goesTo r'.state) : r.goesOn r' :=
  { opening := h.opening, money := h.money, result := h.result, flags := h.flags, coverage := h.coverage, lock := h.lock
    grants := h.grants, totals := h.totals, state := k }

theorem GrantStatus.keeps.refl (a : GrantStatus) : a.keeps a := ⟨id, id⟩

theorem GrantStatus.keeps.trans {a b c : GrantStatus} (h : a.keeps b) (k : b.keeps c) : a.keeps c :=
  ⟨k.1 ∘ h.1, k.2 ∘ h.2⟩

theorem CaseRecord.carriesOn.refl (r : CaseRecord) : r.carriesOn r where
  opening := by simp
  money := fun _ => rfl
  result := id
  flags := by simp
  coverage := fun _ => id
  lock := fun _ => rfl
  grants := fun _ => .refl _
  totals := by simp
  state := .inl rfl

theorem CaseRecord.carriesOn.trans {r r' r'' : CaseRecord} (h : r.carriesOn r') (k : r'.carriesOn r'') : r.carriesOn r'' where
  opening := by
    have := h.opening
    have := k.opening
    simp_all
  money := fun m => by
    have e := h.money m
    have m' : r.money.isSome = true := m
    exact (k.money (by show r'.money.isSome = true; rw [show r'.money = r.money from e]; exact m')).trans e
  result := k.result ∘ h.result
  flags := by
    obtain ⟨a0, a1, a2, a3, a4, a5, a6, a7, a8, a9⟩ := h.flags
    obtain ⟨b0, b1, b2, b3, b4, b5, b6, b7, b8, b9⟩ := k.flags
    exact ⟨b0 ∘ a0, b1 ∘ a1, b2 ∘ a2, b3 ∘ a3, b4 ∘ a4, b5 ∘ a5, b6 ∘ a6, b7 ∘ a7, b8 ∘ a8, b9 ∘ a9⟩
  coverage := fun n => k.coverage n ∘ h.coverage n
  lock := fun m => by
    have e := h.lock m
    have m' : r.lockCsn.isSome = true := m
    exact (k.lock (by show r'.lockCsn.isSome = true; rw [show r'.lockCsn = r.lockCsn from e]; exact m')).trans e
  grants := fun s => (h.grants s).trans (k.grants s)
  totals := by
    obtain ⟨a1, a2, a3, a4⟩ := h.totals
    obtain ⟨b1, b2, b3, b4⟩ := k.totals
    exact ⟨a1.trans b1, a2.trans b2, a3.trans b3, a4.trans b4⟩
  state := .inl rfl

/-! ### Agreement of one record -/

/-- The outstanding action of a record carries what its case desires (R127). -/
def CaseRecord.carriesDesired (r : CaseRecord) : Prop :=
  ∀ o, r.outstanding = some o → o.credit = r.desiredCredit ∧ o.grants = r.desiredGrants

/-- A slot whose status is NONE has no wanted grant (R112). -/
def CaseRecord.slotsAgree (r : CaseRecord) : Prop :=
  ∀ slot : PassSlot, r.grantStatus.get slot = .none → ∀ g ∈ r.wanted, g.slot ≠ slot

theorem CaseRecord.carriesDesired_of_none {r : CaseRecord} (h : r.outstanding = none) : r.carriesDesired := fun o k => by
  rw [h] at k; cases k

theorem CaseRecord.carriesDesired_of_not_differs {r : CaseRecord} (h : r.differs = false) : r.carriesDesired := fun o k => by
  unfold CaseRecord.differs at h
  simpa [k] using h

/-- Records with the same fields read by R126 desire the same. -/
theorem CaseRecord.carriesDesired.congr {r r' : CaseRecord} (h : r.carriesDesired) (ho : r'.outstanding = r.outstanding)
    (hc : r'.desiredCredit = r.desiredCredit) (hg : r'.desiredGrants = r.desiredGrants) : r'.carriesDesired := fun o k => by
  rw [hc, hg]
  exact h o (ho ▸ k)

/-! ### What the Action Queue's operations do to a record -/

/-- `r'` is `r` after work on its actions: its state, deadline, hold reasons, action, owed entries and overpaid may have changed, no
generation is given back, and an outstanding action that carried what is desired still does, or another does. -/
structure CaseRecord.workedOn (r r' : CaseRecord) : Prop where
  kept : r' = { r with
    state := r'.state, deadline := r'.deadline, holdReasons := r'.holdReasons, generation := r'.generation
    outstanding := r'.outstanding, flags := { r.flags with issueOwed := r'.flags.issueOwed }, owed := r'.owed
    overpaid := r'.overpaid }
  generation : r.generation ≤ r'.generation
  desired : r.carriesDesired → r'.carriesDesired
  moves : r.state.movesTo r'.state

theorem CaseRecord.workedOn.refl (r : CaseRecord) : r.workedOn r := ⟨rfl, Nat.le_refl _, id, .refl _⟩

theorem CaseRecord.workedOn.trans {r r' r'' : CaseRecord} (h : r.workedOn r') (k : r'.workedOn r'') : r.workedOn r'' where
  kept := by
    have e := k.kept
    rw [h.kept] at e
    exact e
  generation := h.generation.trans k.generation
  desired := k.desired ∘ h.desired
  moves := h.moves.trans k.moves

theorem CaseRecord.workedOn.carriesOn {r r' : CaseRecord} (h : r.workedOn r') : r.carriesOn r' := by
  have hg := h.generation
  have e := h.kept
  generalize hr : r' = x at e hg ⊢
  rw [e]
  exact { CaseRecord.carriesOn.refl r with totals := ⟨hg, le_refl _, le_refl _, le_refl _⟩ }

theorem CaseRecord.workedOn.slotsAgree {r r' : CaseRecord} (h : r.workedOn r') (k : r.slotsAgree) : r'.slotsAgree := by
  rw [h.kept]; exact k

/-- Work on a case: its record is worked on, and no other changes. -/
structure Worked (c : Nat) (s t : State) : Prop where
  others : s.sameCasesBut t c
  record : (s.caseAt c).workedOn (t.caseAt c)

theorem Worked.refl (c : Nat) (s : State) : Worked c s s := ⟨fun _ _ => rfl, .refl _⟩

theorem Worked.trans {c : Nat} {s t u : State} (h : Worked c s t) (k : Worked c t u) : Worked c s u :=
  ⟨fun j hj => (k.others j hj).trans (h.others j hj), h.record.trans k.record⟩

theorem Worked.of_cases {c : Nat} {s t : State} (h : t.cases = s.cases) : Worked c s t :=
  ⟨fun j _ => State.caseAt_congr h j, by rw [State.caseAt_congr h]; exact .refl _⟩

theorem Worked.setCase {c : Nat} {s : State} (hw : s.tableOk) {r : CaseRecord} (h : (s.caseAt c).workedOn r) :
    Worked c s (s.setCase c r) :=
  ⟨fun _ hj => State.caseAt_setCase_other s hj _, by rw [State.caseAt_setCase_same s hw.1]; exact h⟩

/-- A record written, and what the Case Table does not hold changed. -/
theorem Worked.write {c : Nat} {s t : State} (hw : s.tableOk) {r : CaseRecord} (h : (s.caseAt c).workedOn r)
    (e : t.cases = (s.setCase c r).cases) : Worked c s t :=
  (Worked.setCase hw h).trans (.of_cases e)

theorem mayIssue_active {st : CaseState} {b : Bool} (h : mayIssue st b = true) : st.active := by
  cases st <;> simp_all [mayIssue, CaseState.active]

theorem mayCollect_active {st : CaseState} {b : Bool} (h : mayCollect st b = true) : st.active := by
  cases st <;> simp_all [mayCollect, CaseState.active]

section

variable {s : State} (hw : s.tableOk) {c : Nat} (hn : (s.caseAt c).state ≠ .free)

include hw

theorem Worked.placeWithdraw (g : Nat) : Worked c s (s.placeWithdraw c g) := by
  unfold State.placeWithdraw
  dsimp only
  split
  · exact .of_cases rfl
  · exact .setCase hw ⟨rfl, le_refl _, id, .refl _⟩

theorem Worked.placeUnblock : Worked c s (s.placeUnblock c) := by
  unfold State.placeUnblock
  dsimp only
  split
  · exact .of_cases rfl
  · exact .setCase hw ⟨rfl, le_refl _, id, .refl _⟩

theorem Worked.queueRestore (o : Outstanding) : Worked c s (s.queueRestore c o) := by
  refine .write hw (r := ({ s.caseAt c with flags := { (s.caseAt c).flags with issueOwed := false } } : CaseRecord).startCollection
    s.time.now) ?_ rfl
  unfold CaseRecord.startCollection
  split <;> exact ⟨rfl, le_refl _, id, .refl _⟩

theorem Worked.placeRestore (o : Outstanding) : Worked c s (s.placeRestore c o) := by
  unfold State.placeRestore
  split
  · exact .queueRestore hw o
  · exact .setCase hw ⟨rfl, le_refl _, id, .refl _⟩

theorem Worked.withdraw : Worked c s (s.withdraw c).1 := by
  obtain ⟨others, -, record⟩ := State.withdraw_frame hw c
  exact ⟨others, by rw [record]; exact ⟨rfl, le_refl _, fun _ => CaseRecord.carriesDesired_of_none rfl, .refl _⟩⟩

theorem Worked.reconcileWithdraw : Worked c s (s.reconcileWithdraw c).1 := by
  unfold State.reconcileWithdraw
  split
  · exact .withdraw hw
  · exact .refl c s

/-- After the first step of R127 what is outstanding carries what is desired, and the state is the one the step began in. -/
theorem State.reconcileWithdraw_caseAt : ((s.reconcileWithdraw c).1.caseAt c).carriesDesired
    ∧ ((s.reconcileWithdraw c).1.caseAt c).state = (s.caseAt c).state := by
  unfold State.reconcileWithdraw
  split
  · obtain ⟨-, -, record⟩ := State.withdraw_frame hw c
    rw [record]
    exact ⟨CaseRecord.carriesDesired_of_none rfl, rfl⟩
  · next h => exact ⟨CaseRecord.carriesDesired_of_not_differs (by simpa using h), rfl⟩

theorem Worked.enterCollected (ha : (s.caseAt c).state.active) : Worked c s (s.enterCollected c) :=
  .write hw (r := { s.caseAt c with
      state := .collected
      deadline := some (deadlineAt .tailEnd (s.time.now + (((s.caseAt c).timing.map Timing.tailDays).getD 0) * Config.day)) })
    ⟨rfl, le_refl _, id, .inr ⟨ha, by simp⟩⟩ rfl

theorem Worked.setOverpaid : Worked c s (s.setOverpaid c) := .setCase hw ⟨rfl, le_refl _, id, .refl _⟩

/-- The record after its RESTORE entered the queue: ISSUE_OWED is clear, and a collection deadline runs (R17, R122). -/
theorem State.caseAt_queueRestore (o : Outstanding) : (s.queueRestore c o).caseAt c =
    ({ s.caseAt c with flags := { (s.caseAt c).flags with issueOwed := false } } : CaseRecord).startCollection s.time.now :=
  State.caseAt_setCase_same (s.enqueue _) hw.1 c _

theorem State.caseAt_placeRestore (o : Outstanding) : (s.placeRestore c o).caseAt c =
    if s.admitsRestore then
      ({ s.caseAt c with flags := { (s.caseAt c).flags with issueOwed := false } } : CaseRecord).startCollection s.time.now
    else { s.caseAt c with flags := { (s.caseAt c).flags with issueOwed := true } } := by
  unfold State.placeRestore
  split
  · exact State.caseAt_queueRestore hw o
  · exact State.caseAt_setCase_same s hw.1 c _

omit hw in
theorem CaseRecord.startCollection_state (r : CaseRecord) (now : Nat) : (r.startCollection now).state = r.state := by
  unfold CaseRecord.startCollection
  split <;> rfl

theorem State.placeRestore_state (o : Outstanding) : ((s.placeRestore c o).caseAt c).state = (s.caseAt c).state := by
  rw [State.caseAt_placeRestore hw]
  split
  · exact CaseRecord.startCollection_state _ _
  · rfl

include hn

theorem Worked.issue (ha : (s.caseAt c).state.active) : Worked c s (s.issue c) := by
  unfold State.issue
  dsimp only
  split
  · have h : Worked c s (s.setCase c { s.caseAt c with
        generation := (s.caseAt c).generation + 1
        outstanding := some ⟨(s.caseAt c).generation + 1, (s.caseAt c).desiredCredit, (s.caseAt c).desiredGrants⟩
        state := .issued, deadline := (s.caseAt c).keepCollection }) :=
      .setCase hw ⟨rfl, Nat.le_succ _, fun _ o k => by cases k; exact ⟨rfl, rfl⟩, .inr ⟨ha, by simp⟩⟩
    exact h.trans (.placeRestore (State.setCase_tableOk hw (hw.live_lt hn) fun k => by simp at k) _)
  · exact .write hw (r := { s.caseAt c with state := .held, deadline := none, holdReasons := HoldReasons.exhausted })
      ⟨rfl, le_refl _, id, .inr ⟨ha, by simp⟩⟩ rfl

omit hw hn in
theorem RecordStep.reconcileIssue (hw : s.tableOk) (hn : (s.caseAt c).state ≠ .free) (allowed : Bool) :
    RecordStep s (s.reconcileIssue c allowed) := by
  unfold State.reconcileIssue
  dsimp only
  split
  · exact .issue hw hn
  · exact .refl hw

omit hw hn in
theorem RecordStep.reconcileCollect (hw : s.tableOk) (hn : (s.caseAt c).state ≠ .free) (allowed : Bool) :
    RecordStep s (s.reconcileCollect c allowed) := by
  unfold State.reconcileCollect
  dsimp only
  split
  · exact .enterCollected hw hn
  · exact .refl hw

theorem Worked.reconcileIssue (allowed : Bool) (ha : allowed = true → (s.caseAt c).state.active) :
    Worked c s (s.reconcileIssue c allowed) := by
  unfold State.reconcileIssue
  dsimp only
  split
  · next h => simp only [Bool.and_eq_true] at h; exact .issue hw hn (ha h.2)
  · exact .refl c s

/-- A case that the reconcile step issues for ends ISSUED or HELD (R127, R21). -/
theorem State.issue_state : ((s.issue c).caseAt c).state = .issued ∨ ((s.issue c).caseAt c).state = .held := by
  unfold State.issue
  dsimp only
  split
  · left
    rw [State.placeRestore_state (State.setCase_tableOk hw (hw.live_lt hn) fun k => by simp at k),
      State.caseAt_setCase_same s hw.1]
  · right
    exact congrArg CaseRecord.state (State.caseAt_setCase_same s hw.1 c _)

theorem State.reconcileIssue_active (allowed : Bool) (ha : (s.caseAt c).state.active) :
    ((s.reconcileIssue c allowed).caseAt c).state.active := by
  unfold State.reconcileIssue
  dsimp only
  split
  · rcases State.issue_state hw hn with e | e <;> rw [e] <;> simp [CaseState.active]
  · exact ha

omit hn

theorem Worked.reconcileCollect (allowed : Bool) (ha : allowed = true → (s.caseAt c).state.active) :
    Worked c s (s.reconcileCollect c allowed) := by
  unfold State.reconcileCollect
  dsimp only
  split
  · next h => simp only [Bool.and_eq_true] at h; exact .enterCollected hw (ha h.2)
  · exact .refl c s

include hn

/-- The reconcile step works on its case, and leaves outstanding what is desired, whatever was outstanding before (R127). -/
theorem State.reconcile_works (b : Bool) :
    Worked c s (s.reconcile c b).1 ∧ ((s.reconcile c b).1.caseAt c).carriesDesired := by
  have t1 : RecordStep s (s.reconcileWithdraw c).1 := by
    unfold State.reconcileWithdraw
    split
    · exact .withdraw hw hn
    · exact .refl hw
  obtain ⟨desired, state⟩ := State.reconcileWithdraw_caseAt hw (c := c)
  have n1 := t1.live hn
  have w2 : Worked c _ ((s.reconcileWithdraw c).1.reconcileIssue c (mayIssue (s.caseAt c).state b)) :=
    .reconcileIssue t1.table n1 _ fun h => by rw [state]; exact mayIssue_active h
  have t2 := t1.trans (.reconcileIssue t1.table n1 (mayIssue (s.caseAt c).state b))
  have w3 := Worked.reconcileCollect t2.table (c := c) (mayCollect (s.caseAt c).state b) fun h =>
    State.reconcileIssue_active t1.table n1 _ (by rw [state]; exact mayCollect_active h)
  have t3 := t2.trans (.reconcileCollect t2.table (t2.live hn) (mayCollect (s.caseAt c).state b))
  have w := (w2.trans w3).trans (.setOverpaid t3.table)
  exact ⟨(Worked.reconcileWithdraw hw).trans w, w.record.desired desired⟩

omit hn in
theorem Worked.serveUnblock : Worked c s (s.serveUnblock c) := by
  unfold State.serveUnblock
  dsimp only
  split
  · exact .write hw (r := { s.caseAt c with owed := { (s.caseAt c).owed with unblock := false } }) ⟨rfl, le_refl _, id, .refl _⟩ rfl
  · exact .refl c s

omit hn in
theorem Worked.serveRestore : Worked c s (s.serveRestore c) := by
  unfold State.serveRestore
  dsimp only
  split
  · split
    · exact .queueRestore hw _
    · exact .refl c s
  · exact .refl c s

omit hw hn in
theorem Worked.serveWithdraws : ∀ (gs : List Nat) {s : State}, s.tableOk → (s.caseAt c).state ≠ .free →
    Worked c s (s.serveWithdraws c gs) := by
  intro gs
  induction gs with
  | nil => exact fun _ _ => .refl c _
  | cons g gs ih =>
    intro s hw hn
    unfold State.serveWithdraws
    split
    · have t0 : (s.enqueue (.withdraw (s.refOfCase c g) (s.caseAt c).newCard)).tableOk := hw
      have t1 := State.setCase_tableOk t0 (hw.live_lt hn) (r := { s.caseAt c with owed := { (s.caseAt c).owed with withdraws := gs } })
        fun k => absurd k hn
      have w1 : Worked c s ((s.enqueue (.withdraw (s.refOfCase c g) (s.caseAt c).newCard)).setCase c
          { s.caseAt c with owed := { (s.caseAt c).owed with withdraws := gs } }) :=
        .write hw (r := { s.caseAt c with owed := { (s.caseAt c).owed with withdraws := gs } }) ⟨rfl, le_refl _, id, .refl _⟩ rfl
      refine w1.trans (ih t1 ?_)
      rw [State.caseAt_setCase_same (s.enqueue _) hw.1]
      exact hn
    · exact .refl c s

theorem Worked.serveCase : Worked c s (s.serveCase c) := by
  have t1 := RecordStep.serveWithdraws hw hn (s.caseAt c).owed.withdraws
  have t2 := t1.trans (.serveUnblock t1.table (t1.live hn))
  have t3 := t2.trans (.serveRestore t2.table (t2.live hn))
  exact (((Worked.serveWithdraws _ hw hn).trans (.serveUnblock t1.table)).trans (.serveRestore t2.table)).trans
    (State.reconcile_works t3.table (t3.live hn) false).1

end

end Sys2Proof.Machine
end

section
/-! PROOFS. What each event of a case does to its life (O59) and to the agreement of its outstanding action (O58). -/

namespace Sys2Proof.Machine

/-! ### Events of one case -/

/-- An event of case `c`: its record goes on and agrees with its outstanding action, and no other changes. -/
structure CaseGoesOn (c : Nat) (s t : State) : Prop where
  others : s.sameCasesBut t c
  carries : (s.caseAt c).carriesOn (t.caseAt c)
  moves : (s.caseAt c).state.movesTo (t.caseAt c).state
  desired : (t.caseAt c).carriesDesired
  slots : (t.caseAt c).slotsAgree

/-- Every record agrees with its outstanding action. -/
def State.agreed (s : State) : Prop := ∀ c, (s.caseAt c).carriesDesired ∧ (s.caseAt c).slotsAgree

theorem State.agreed_iff {s : State} : s.agreed ↔ s.actionsAgree :=
  ⟨fun h => ⟨fun c o => (h c).1 o, fun c => (h c).2⟩, fun h c => ⟨fun o => h.1 c o, h.2 c⟩⟩

theorem CaseGoesOn.of_cases {c : Nat} {s t : State} (ha : s.agreed) (e : t.cases = s.cases) : CaseGoesOn c s t := by
  refine ⟨fun j _ => State.caseAt_congr e j, ?_, ?_, ?_, ?_⟩ <;> rw [State.caseAt_congr e]
  exacts [.refl _, .refl _, (ha c).1, (ha c).2]

theorem CaseGoesOn.agreed {c : Nat} {s t : State} (h : CaseGoesOn c s t) (ha : s.agreed) : t.agreed := fun j => by
  by_cases hj : j = c
  · subst hj; exact ⟨h.desired, h.slots⟩
  · rw [h.others j hj]; exact ha j

theorem Worked.goesOn {c : Nat} {s t : State} (h : Worked c s t) (ha : s.agreed) : CaseGoesOn c s t :=
  ⟨h.others, h.record.carriesOn, h.record.moves, h.record.desired (ha c).1, h.record.slotsAgree (ha c).2⟩

/-- A record written that goes on and desires what it desired. -/
theorem CaseGoesOn.write {c : Nat} {s t : State} (hw : s.tableOk) {r : CaseRecord} (e : t.cases = (s.setCase c r).cases)
    (carries : (s.caseAt c).carriesOn r) (moves : (s.caseAt c).state.movesTo r.state) (desired : r.carriesDesired)
    (slots : r.slotsAgree) : CaseGoesOn c s t := by
  have er : t.caseAt c = r := (State.caseAt_congr e c).trans (State.caseAt_setCase_same s hw.1 c r)
  refine ⟨fun j hj => (State.caseAt_congr e j).trans (State.caseAt_setCase_other s hj r), ?_, ?_, ?_, ?_⟩ <;> rw [er] <;> assumption

/-- A record written and then reconciled: whatever it desired before, its outstanding action carries what it desires now. -/
theorem CaseGoesOn.write_reconcile {c : Nat} {s t : State} (hw : s.tableOk) (hn : (s.caseAt c).state ≠ .free) {r : CaseRecord}
    (e : t.cases = (s.setCase c r).cases) (carries : (s.caseAt c).carriesOn r) (moves : (s.caseAt c).state.movesTo r.state)
    (live : r.state ≠ .free) (slots : r.slotsAgree) (b : Bool) : CaseGoesOn c s (t.reconcile c b).1 := by
  have er : t.caseAt c = r := (State.caseAt_congr e c).trans (State.caseAt_setCase_same s hw.1 c r)
  have ht : t.tableOk := by
    unfold State.tableOk
    rw [e]
    exact State.setCase_tableOk hw (hw.live_lt hn) fun k => absurd k live
  obtain ⟨works, desired⟩ := State.reconcile_works ht (c := c) (by rw [er]; exact live) b
  refine ⟨fun j hj => ?_, ?_, ?_, desired, ?_⟩
  · rw [works.others j hj, State.caseAt_congr e]; exact State.caseAt_setCase_other s hj r
  · exact carries.trans (er ▸ works.record.carriesOn)
  · exact moves.trans (er ▸ works.record.moves)
  · exact works.record.slotsAgree (er ▸ slots)

/-! ### Attachment -/

theorem cover_getLsbD {coverage : BitVec 256} {baseline csn n : Nat} (h : coverage.getLsbD n = true) :
    (cover coverage baseline csn).getLsbD n = true := by
  unfold cover
  split
  · rw [BitVec.getLsbD_or, h, Bool.true_or]
  · exact h

theorem le_bumpPruned (n : Nat) : n ≤ bumpPruned n := by
  unfold bumpPruned; split <;> omega

/-- A record set to be the lock sets the lock CSN once (R72). -/
theorem CaseRecord.lockOn_carriesOn {r : CaseRecord} (h : r.lifeOk) (c : Nat) (a : Arrival) : r.carriesOn (r.lockOn c a) := by
  unfold CaseRecord.lockOn
  split
  · next hx =>
    have hl : r.lockCsn.isSome = false := by rw [← h.lock]; exact hx.2.2
    exact { CaseRecord.carriesOn.refl r with
      flags := by simp +contextual
      lock := fun k => absurd k (by show ¬ r.lockCsn.isSome = true; simp [hl]) }
  · exact .refl r

/-- What attaching a record changes of its case: its evidence, and nothing that an action is made of. -/
structure CaseRecord.witnessed (r r' : CaseRecord) : Prop where
  kept : r' = { r with
    arrivals := r'.arrivals, coverage := r'.coverage, pruned := r'.pruned, changeCount := r'.changeCount, flags := r'.flags
    lockCsn := r'.lockCsn }
  carries : r.carriesOn r'

theorem CaseRecord.witnessed.refl (r : CaseRecord) : r.witnessed r := ⟨rfl, .refl r⟩

theorem CaseRecord.witnessed.trans {r r' r'' : CaseRecord} (h : r.witnessed r') (k : r'.witnessed r'') : r.witnessed r'' where
  kept := by
    have e := k.kept
    rw [h.kept] at e
    exact e
  carries := h.carries.trans k.carries

theorem CaseRecord.lockOn_witnessed {r : CaseRecord} (h : r.lifeOk) (c : Nat) (a : Arrival) : r.witnessed (r.lockOn c a) :=
  ⟨by unfold CaseRecord.lockOn; split <;> rfl, r.lockOn_carriesOn h c a⟩

/-- A record taken keeps what the case had seen, and may raise its pruned count (R64, R69). -/
theorem CaseRecord.taken_witnessed (r : CaseRecord) (a : Arrival) (l : List Arrival) {n : Nat} (hn : r.pruned ≤ n) :
    r.witnessed { r.taken a with arrivals := l, pruned := n } :=
  ⟨rfl, { CaseRecord.carriesOn.refl r with
    flags := by simp +contextual [CaseRecord.taken]
    coverage := fun _ => cover_getLsbD
    totals := ⟨le_refl _, le_refl _, le_refl _, hn⟩ }⟩

/-- Attaching a record to case `c` witnesses its case, and leaves every other. -/
structure Witnessed (c : Nat) (s t : State) : Prop where
  others : s.sameCasesBut t c
  record : (s.caseAt c).witnessed (t.caseAt c)

theorem Witnessed.of_cases {c : Nat} {s t : State} (e : t.cases = s.cases) : Witnessed c s t :=
  ⟨fun j _ => State.caseAt_congr e j, by rw [State.caseAt_congr e]; exact .refl _⟩

theorem Witnessed.trans {c : Nat} {s t u : State} (h : Witnessed c s t) (k : Witnessed c t u) : Witnessed c s u :=
  ⟨fun j hj => (k.others j hj).trans (h.others j hj), h.record.trans k.record⟩

theorem Witnessed.setCase {c : Nat} {s : State} (hw : s.tableOk) {r : CaseRecord} (h : (s.caseAt c).witnessed r) :
    Witnessed c s (s.setCase c r) :=
  ⟨fun _ hj => State.caseAt_setCase_other s hj r, by rw [State.caseAt_setCase_same s hw.1]; exact h⟩

theorem Witnessed.placeEvidence {c : Nat} {s t : State} (h : Witnessed c s t) : Witnessed c s (t.placeEvidence c) :=
  h.trans (.of_cases (by simp))

theorem Witnessed.logException {c : Nat} {s t : State} (h : Witnessed c s t) (n : Option Nat) (k : Option CardId)
    (d : Option DeviceId) (x : ExceptionDetail) : Witnessed c s (t.logException n k d x) :=
  h.trans (.of_cases rfl)

theorem Witnessed.takeNew {c : Nat} {s : State} (hw : s.tableOk) (h : s.casesOk) (a : Arrival) : Witnessed c s (s.takeNew c a).1 := by
  have lock := CaseRecord.lockOn_witnessed (h.at c) c a
  have taken : ∀ l n, ((s.caseAt c).lockOn c a).pruned ≤ n →
      (s.caseAt c).witnessed { ((s.caseAt c).lockOn c a).taken a with arrivals := l, pruned := n } := fun l n hn =>
    lock.trans (CaseRecord.taken_witnessed _ a l hn)
  unfold State.takeNew
  dsimp only
  split
  · exact .placeEvidence ((Witnessed.setCase hw (taken _ _ (le_refl _))).trans (.of_cases rfl))
  · exact .placeEvidence (.setCase hw (taken _ _ (le_bumpPruned _)))
  · exact .placeEvidence (.setCase hw (taken _ _ (le_bumpPruned _)))
  · refine .logException (.setCase hw (lock.trans ?_)) _ _ _ _
    exact ⟨rfl, { CaseRecord.carriesOn.refl _ with flags := by simp }⟩

theorem Witnessed.attachOutcome {c : Nat} {s : State} (hw : s.tableOk) (h : s.casesOk) (a : Arrival) :
    Witnessed c s (s.attachOutcome c a).1 := by
  unfold State.attachOutcome
  dsimp only
  split
  · exact .of_cases rfl
  · split
    · split
      · exact .of_cases rfl
      · refine .logException (.setCase hw ?_) _ _ _ _
        exact ⟨rfl, { CaseRecord.carriesOn.refl _ with flags := by simp }⟩
    · split
      · exact .of_cases rfl
      · exact .takeNew hw h a

theorem Witnessed.checkBreach {c : Nat} {s : State} (hw : s.tableOk) (csn : Nat) : Witnessed c s (s.checkBreach c csn) := by
  unfold State.checkBreach
  split
  · exact .setCase hw ⟨rfl, { CaseRecord.carriesOn.refl _ with flags := by simp [CaseRecord.breach] }⟩
  · exact .of_cases rfl

theorem CaseGoesOn.attach {s : State} (hw : s.tableOk) (h : s.casesOk) (ha : s.agreed) {c : Nat} (hn : (s.caseAt c).state ≠ .free)
    (a : Arrival) : CaseGoesOn c s (s.attach c a).1 := by
  have w : Witnessed c s (s.attach c a).1 :=
    (Witnessed.attachOutcome hw h a).trans (.checkBreach (AttachStep.attachOutcome hw hn a).table a.csn)
  have e := w.record.kept
  refine ⟨w.others, w.record.carries, ?_, ?_, ?_⟩ <;> rw [e]
  exacts [.refl _, (ha c).1, (ha c).2]

/-! ### Collections -/

theorem SlotStatuses.get_build (f : PassSlot → GrantStatus) (slot : PassSlot) : (SlotStatuses.build f).get slot = f slot := by
  fin_cases slot <;> rfl

theorem carriesSlot_iff {grants : List Grant} {slot : PassSlot} : carriesSlot grants slot = true ↔ ∃ g ∈ grants, g.slot = slot := by
  simp [carriesSlot]

/-- A desired grant's slot is WANTED (R126). -/
theorem CaseRecord.wanted_of_desired {r : CaseRecord} {slot : PassSlot} (h : carriesSlot r.desiredGrants slot = true) :
    r.grantStatus.get slot = .wanted := by
  obtain ⟨g, hg, rfl⟩ := carriesSlot_iff.mp h
  simpa using (List.mem_filter.mp hg).2

theorem le_addTotal {t m : Int} (h : t ≤ 2000000) (hm : 0 ≤ m) : t ≤ addTotal t m :=
  le_min (by omega) h

/-- A COLLECTION of what is desired changes no final status and gives no total back (R131, R132). -/
theorem CaseRecord.collect_carriesOn {r : CaseRecord} (h : r.lifeOk) {o : Outstanding} (ho : o.grants = r.desiredGrants)
    {counted : Int} (hc : 0 ≤ counted) (mask : BitVec 4) : r.carriesOn (r.collect o counted mask) :=
  { CaseRecord.carriesOn.refl r with
    flags := by simp +contextual [CaseRecord.collect, CaseRecord.clearOutstanding]
    grants := fun slot => by
      show (r.grantStatus.get slot).keeps ((r.grantStatus.afterCollection o.grants mask).get slot)
      rw [SlotStatuses.afterCollection, SlotStatuses.get_build, ho]
      split
      · next k => rw [CaseRecord.wanted_of_desired k]; simp [GrantStatus.keeps]
      · exact .refl _
    totals := by
      refine ⟨le_refl _, le_addTotal h.applied.2 hc, ?_, le_refl _⟩
      simp only [CaseRecord.collect]
      split
      · next hs =>
        simp only [decide_eq_true_eq] at hs
        exact le_addTotal h.unpaid.2 (by omega)
      · exact le_refl _ }

theorem CaseRecord.collect_slotsAgree {r : CaseRecord} (h : r.slotsAgree) (o : Outstanding) (counted : Int) (mask : BitVec 4) :
    (r.collect o counted mask).slotsAgree := by
  intro slot hs
  refine h slot ?_
  simp only [CaseRecord.collect, SlotStatuses.afterCollection, SlotStatuses.get_build] at hs
  split at hs
  · split at hs <;> cases hs
  · exact hs

/-- A STALE_COLLECTION makes APPLIED, gives no total back and changes no final status (R133). -/
theorem CaseRecord.stale_carriesOn {r : CaseRecord} (h : r.lifeOk) {counted : Int} (hc : 0 ≤ counted) (mask : BitVec 4) :
    r.carriesOn { r with applied := addTotal r.applied counted, grantStatus := r.grantStatus.afterStale mask } :=
  { CaseRecord.carriesOn.refl r with
    grants := fun slot => by
      show (r.grantStatus.get slot).keeps ((r.grantStatus.afterStale mask).get slot)
      rw [SlotStatuses.afterStale, SlotStatuses.get_build]
      split
      · next k => rcases k.2 with e | e <;> rw [e] <;> simp [GrantStatus.keeps]
      · exact .refl _
    totals := ⟨le_refl _, le_addTotal h.applied.2 hc, le_refl _, le_refl _⟩ }

theorem CaseRecord.stale_slotsAgree {r : CaseRecord} (h : r.slotsAgree) (total : Int) (mask : BitVec 4) :
    CaseRecord.slotsAgree { r with applied := total, grantStatus := r.grantStatus.afterStale mask } := by
  intro slot hs
  refine h slot ?_
  simp only [SlotStatuses.afterStale, SlotStatuses.get_build] at hs
  split at hs
  · cases hs
  · exact hs

theorem collectionRow_current {r : CaseRecord} {c : Nat} {ref : Ref} {o : Outstanding} (h : collectionRow r c ref = .current o) :
    r.outstanding = some o := by
  unfold collectionRow at h
  split at h
  · cases h
  · split at h
    · cases h
    · split at h
      · next o' ho =>
        split at h
        · cases h; exact ho
        · split at h <;> cases h
      · split at h <;> cases h

theorem CaseGoesOn.takeCollection {s : State} (hw : s.tableOk) (h : s.casesOk) (ha : s.agreed) {c : Nat}
    (hn : (s.caseAt c).state ≠ .free) (card : CardId) (ref : Ref) (amount : Int) (mask : BitVec 4) (device : DeviceId) :
    CaseGoesOn c s (s.takeCollection c card ref amount mask device).1.1 := by
  have counted : 0 ≤ countedAmount amount := le_max_right _ _
  unfold State.takeCollection
  split
  · exact .of_cases ha rfl
  · next o hrow =>
    obtain ⟨-, hg⟩ := (ha c).1 o (collectionRow_current hrow)
    have any : ∀ t : State, t.cases = (s.setCase c ((s.caseAt c).collect o (countedAmount amount) mask)).cases →
        CaseGoesOn c s (t.reconcile c false).1 := fun t e =>
      .write_reconcile hw hn e (CaseRecord.collect_carriesOn (h.at c) hg counted mask) (.refl _) hn
        (CaseRecord.collect_slotsAgree (ha c).2 _ _ _) false
    unfold State.collection
    dsimp only
    split
    · exact any _ rfl
    · split
      · exact any _ rfl
      · exact any _ rfl
  · have any : ∀ t : State, t.cases = (s.setCase c { s.caseAt c with
        applied := addTotal (s.caseAt c).applied (countedAmount amount)
        grantStatus := (s.caseAt c).grantStatus.afterStale mask }).cases → CaseGoesOn c s (t.reconcile c false).1 := fun t e =>
      .write_reconcile hw hn e (CaseRecord.stale_carriesOn (h.at c) counted mask) (.refl _) hn
        (CaseRecord.stale_slotsAgree (ha c).2 _ _) false
    exact any _ rfl

/-! ### Completions -/

theorem SlotStatuses.get_afterGrants (t : SlotStatuses) (grants : List Grant) (slot : PassSlot) :
    (t.afterGrants grants).get slot =
      if t.get slot = .applied ∨ t.get slot = .refused then t.get slot else if carriesSlot grants slot then .wanted else .none := by
  rw [SlotStatuses.afterGrants, SlotStatuses.get_build]
  cases t.get slot <;> simp

/-- A result written keeps captured money, the flags and every final status (R96, R97, R112). -/
theorem CaseRecord.settledBy_carriesOn (r : CaseRecord) (op : Operation) : r.carriesOn (r.settledBy op) :=
  { CaseRecord.carriesOn.refl r with
    money := fun k => by
      obtain ⟨m, hm⟩ := Option.isSome_iff_exists.mp (show r.money.isSome = true from k)
      show some (r.money.getD op.money) = r.money
      rw [hm]; rfl
    result := fun _ => rfl
    flags := by simp +contextual [CaseRecord.settledBy]
    grants := fun slot => by
      show (r.grantStatus.get slot).keeps ((r.grantStatus.afterGrants op.grants).get slot)
      rw [SlotStatuses.get_afterGrants]
      split
      · exact .refl _
      · next k => exact ⟨fun e => absurd (.inl e) k, fun e => absurd (.inr e) k⟩ }

theorem CaseRecord.settledBy_slotsAgree (r : CaseRecord) (op : Operation) : (r.settledBy op).slotsAgree := by
  intro slot hs g hg he
  have hs : (r.grantStatus.afterGrants op.grants).get slot = .none := hs
  rw [SlotStatuses.get_afterGrants] at hs
  have hc : carriesSlot op.grants slot = true := carriesSlot_iff.mpr ⟨g, hg, he⟩
  split at hs
  · next k => rw [hs] at k; simp at k
  · cases hs

theorem CaseRecord.checked_carriesOn (r : CaseRecord) (op : Operation) : r.carriesOn (r.checked op) :=
  { CaseRecord.carriesOn.refl r with flags := by simp +contextual [CaseRecord.checked] }

/-- A RECOMPUTE that finds T and the wanted grants as they were leaves what is desired as it was (R98). -/
theorem CaseRecord.settledBy_desired {r : CaseRecord} (h : r.slotsAgree) {op : Operation} (ht : op.result.target = r.target)
    (hg : op.grants = r.wanted) :
    (r.settledBy op).desiredCredit = r.desiredCredit ∧ (r.settledBy op).desiredGrants = r.desiredGrants := by
  constructor
  · unfold CaseRecord.desiredCredit
    rw [show (r.settledBy op).target = r.target from ht]
    rfl
  · unfold CaseRecord.desiredGrants
    rw [show (r.settledBy op).wanted = r.wanted from hg]
    refine List.filter_congr fun g hgw => ?_
    show decide ((r.grantStatus.afterGrants op.grants).get g.slot = .wanted) = _
    rw [SlotStatuses.get_afterGrants, hg, carriesSlot_iff.mpr ⟨g, hgw, rfl⟩]
    have hne : r.grantStatus.get g.slot ≠ .none := fun e => h g.slot e g hgw rfl
    cases hx : r.grantStatus.get g.slot <;> simp_all

theorem SettleMode.applies_active {m : SettleMode} {r : CaseRecord} (h : m.applies r = true) : r.state.active := by
  unfold CaseState.active
  unfold SettleMode.applies at h
  cases m <;> simp at h <;> tauto

theorem CaseRecord.held_carriesOn (r : CaseRecord) (why : HoldReasons) :
    r.carriesOn { r with state := .held, deadline := none, holdReasons := why } :=
  { CaseRecord.carriesOn.refl r with }

theorem CaseGoesOn.completeBy {s : State} (hw : s.tableOk) (ha : s.agreed) (op : Operation)
    (hn : (s.caseAt op.caseNo).state ≠ .free) (hm : op.mode.applies (s.caseAt op.caseNo) = true) :
    CaseGoesOn op.caseNo s (s.completeBy op).1 := by
  obtain ⟨desired, slots⟩ := ha op.caseNo
  have result : ∀ t : State, t.cases = (s.setCase op.caseNo ((s.caseAt op.caseNo).settledBy op)).cases →
      CaseGoesOn op.caseNo s (t.reconcile op.caseNo true).1 := fun t e =>
    .write_reconcile hw hn e (CaseRecord.settledBy_carriesOn _ op) (.refl _) hn (CaseRecord.settledBy_slotsAgree _ op) true
  have held : ∀ (r : CaseRecord) why, (s.caseAt op.caseNo).carriesOn r → r.carriesDesired → r.slotsAgree →
      CaseGoesOn op.caseNo s (s.hold op.caseNo r why) := fun r why hc hd hs =>
    .write hw (r := { r with state := .held, deadline := none, holdReasons := why }) rfl
      (hc.trans (r.held_carriesOn why)) (.inr ⟨SettleMode.applies_active hm, by simp⟩) hd hs
  unfold State.completeBy
  split
  · unfold State.completeEarly
    dsimp only
    split
    · exact result _ rfl
    · exact .write hw rfl (CaseRecord.checked_carriesOn _ op) (.refl _) desired slots
  · unfold State.completeFinal
    dsimp only
    split
    · exact held _ _ (CaseRecord.checked_carriesOn _ op) desired slots
    · exact result _ rfl
  · unfold State.completeForced
    split
    · exact held _ _ (.refl _) desired slots
    · exact result _ rfl
  · unfold State.completeRecompute
    dsimp only
    split
    · exact result _ rfl
    · next k =>
      simp only [ne_eq, not_or, not_not] at k
      obtain ⟨hc, hg⟩ := CaseRecord.settledBy_desired slots k.1 k.2
      exact .write hw rfl (CaseRecord.settledBy_carriesOn _ op) (.refl _) (desired.congr rfl hc hg)
        (CaseRecord.settledBy_slotsAgree _ op)

/-! ### Reissue and the expiries -/

theorem CaseGoesOn.reissue {s : State} (hw : s.tableOk) (ha : s.agreed) {c : Nat} (hl : (s.caseAt c).state = .lapsed) :
    CaseGoesOn c s ((s.setCase c { s.caseAt c with state := .issued }).reconcile c false).1 :=
  .write_reconcile hw (r := { s.caseAt c with state := .issued }) (by rw [hl]; decide) rfl { CaseRecord.carriesOn.refl (s.caseAt c) with }
    (.inr ⟨by simp [hl, CaseState.active], by simp⟩) (by simp) (ha c).2 false

/-- A collection deadline's expiry, before room that it freed is served, is work on its case (R18). -/
theorem Worked.lapse {s : State} (hw : s.tableOk) {c : Nat} (hn : (s.caseAt c).state ≠ .free) (hi : (s.caseAt c).state.active) :
    Worked c s (((s.setCase c (s.caseAt c).expired).withdraw c).1.setCase c
      { ((s.setCase c (s.caseAt c).expired).withdraw c).1.caseAt c with state := .lapsed }) := by
  have t1 : (s.setCase c (s.caseAt c).expired).tableOk := State.setCase_tableOk hw (hw.live_lt hn) fun k => absurd k hn
  have e1 : ((s.setCase c (s.caseAt c).expired).caseAt c) = (s.caseAt c).expired := State.caseAt_setCase_same s hw.1 c _
  have t2 := (RecordStep.withdraw t1 (c := c) (by rw [e1]; exact hn)).table
  have w1 : Worked c s (s.setCase c (s.caseAt c).expired) := .setCase hw ⟨rfl, le_refl _, id, .refl _⟩
  obtain ⟨-, -, state, -⟩ := State.withdraw_caseAt t1 (c := c)
  rw [e1] at state
  refine (w1.trans (.withdraw t1)).trans (.setCase t2 ⟨rfl, le_refl _, id, .inr ⟨?_, by simp⟩⟩)
  rw [state]
  exact hi

end Sys2Proof.Machine
end

section
/-! PROOFS. The lives of cases over every command (O59), and the agreement of the outstanding actions (O58). -/

namespace Sys2Proof.Machine

/-! ### A part on the way of one command -/

/-- The states a case reaches within one command: those it moves through, and CANCELLED where CANCEL_CASE takes it there. -/
def CaseState.reaches (s t : CaseState) : Prop := s.movesTo t ∨ (s.goesTo .cancelled ∧ t = .cancelled)

theorem CaseState.reaches.moves {s t u : CaseState} (h : s.reaches t) (k : t.movesTo u) : s.reaches u := by
  rcases h with h | ⟨h, rfl⟩
  · exact .inl (h.trans k)
  · rcases k with rfl | ⟨ha, -⟩
    · exact .inr ⟨h, rfl⟩
    · simp [CaseState.active] at ha

theorem CaseState.reaches.goesTo {s t : CaseState} (h : s.reaches t) (hs : s ≠ .free) : s.goesTo t := by
  rcases h with h | ⟨h, rfl⟩
  · exact h.goesTo hs
  · exact h

/-- What a part holds at each moment of a command that began in `s` and opens and releases no case. -/
structure LivesOn (s u : State) : Prop where
  table : u.tableOk
  agreed : u.agreed
  free : ∀ k, (s.caseAt k).state = .free → u.caseAt k = s.caseAt k
  carries : ∀ k, (s.caseAt k).carriesOn (u.caseAt k)
  reaches : ∀ k, (s.caseAt k).state.reaches (u.caseAt k).state

theorem LivesOn.start {s : State} (hw : s.tableOk) (ha : s.agreed) : LivesOn s s :=
  ⟨hw, ha, fun _ _ => rfl, fun _ => .refl _, fun _ => .inl (.refl _)⟩

theorem LivesOn.same {s u v : State} (h : LivesOn s u) (e : SameTables u v) : LivesOn s v := by
  refine ⟨e.tableOk h.table, fun c => ?_, fun k hk => ?_, fun k => ?_, fun k => ?_⟩ <;> rw [e.caseAt]
  exacts [h.agreed c, h.free k hk, h.carries k, h.reaches k]

/-- An event of a live case continues the command. -/
theorem LivesOn.next {s u v : State} (h : LivesOn s u) {c : Nat} (hn : (u.caseAt c).state ≠ .free) (g : CaseGoesOn c u v)
    (hv : v.tableOk) : LivesOn s v := by
  have ne : ∀ k, (s.caseAt k).state = .free → k ≠ c := fun k hk e => by
    subst e; exact hn (by rw [h.free k hk]; exact hk)
  refine ⟨hv, g.agreed h.agreed, fun k hk => ?_, fun k => ?_, fun k => ?_⟩
  · rw [g.others k (ne k hk)]; exact h.free k hk
  · by_cases e : k = c
    · subst e; exact (h.carries k).trans g.carries
    · rw [g.others k e]; exact h.carries k
  · by_cases e : k = c
    · subst e; exact (h.reaches k).moves g.moves
    · rw [g.others k e]; exact h.reaches k

theorem LivesOn.serveCase {s u : State} (h : LivesOn s u) {c : Nat} (hn : (u.caseAt c).state ≠ .free) : LivesOn s (u.serveCase c) :=
  h.next hn ((Worked.serveCase h.table hn).goesOn h.agreed) (RecordStep.serveCase h.table hn).table

theorem LivesOn.serveCases {s : State} : ∀ (cs : List Nat) {u : State}, LivesOn s u → LivesOn s (u.serveCases cs) := by
  intro cs
  induction cs with
  | nil => exact fun h => h
  | cons c cs ih =>
    intro u h
    unfold State.serveCases
    split
    · next hs => exact ih (h.serveCase (State.servable_live h.table hs))
    · exact ih h

theorem LivesOn.endEvent {s : State} {o : State × Bool} (h : LivesOn s o.1) : LivesOn s (endEvent o) := by
  unfold Machine.endEvent
  split
  · exact h.serveCases _
  · exact h

theorem LivesOn.expire {s u : State} (h : LivesOn s u) (hc : u.casesOk) {c : Nat} (hn : (u.caseAt c).state ≠ .free) :
    LivesOn s (u.expire c (u.caseAt c)) := by
  have kind : ∀ k, (u.caseAt c).deadline.map Deadline.kind = some k → k.belongsTo (u.caseAt c).state := by
    intro k hk
    obtain ⟨d, hd, rfl⟩ := Option.map_eq_some_iff.mp hk
    exact ((hc.at c).deadline d hd).1
  have table := (RecordStep.expire h.table hn).table
  unfold State.expire at table ⊢
  split at table
  · exact h.next hn ((Worked.write h.table (r := (u.caseAt c).expired) ⟨rfl, le_refl _, id, .refl _⟩
      (by simp [State.windowExpires])).goesOn h.agreed) table
  · next hk =>
    have issued : (u.caseAt c).state = .issued := kind _ hk
    have work := Worked.lapse h.table hn (by simp [issued, CaseState.active])
    have t1 := State.setCase_tableOk h.table (h.table.live_lt hn) (r := (u.caseAt c).expired) fun k => absurd k hn
    have e1 := State.caseAt_setCase_same u h.table.1 c (u.caseAt c).expired
    have r2 := RecordStep.withdraw t1 (c := c) (by rw [e1]; exact hn)
    have t3 := State.setCase_tableOk r2.table (h.table.live_lt hn)
      (r := { ((u.setCase c (u.caseAt c).expired).withdraw c).1.caseAt c with state := .lapsed }) fun k => by simp at k
    exact LivesOn.endEvent (o := (_, _)) ((h.next hn (work.goesOn h.agreed) t3).same ⟨rfl, rfl, rfl⟩)
  · next hk =>
    have collected : (u.caseAt c).state = .collected := kind _ hk
    exact h.next hn ((Worked.write h.table (t := u.tailExpires c (u.caseAt c)) (r := { (u.caseAt c).expired with state := .closed })
      ⟨rfl, le_refl _, id, .inr ⟨by simp [collected, CaseState.active], by simp⟩⟩ rfl).goesOn h.agreed) table
  · exact h

/-- The events of cases continue the lives of all. -/
theorem keptByEvents_livesOn (s : State) : KeptByEvents (fun u => u.casesOk ∧ LivesOn s u) where
  table := fun h => h.2.table
  same := fun e h => ⟨h.1.congr e.cases, h.2.same e⟩
  attach := fun h hn a =>
    ⟨State.casesOk.attach h.2.table h.1 _ a hn, h.2.next hn (.attach h.2.table h.1 h.2.agreed hn a) (AttachStep.attach h.2.table hn a).table⟩
  collect := fun h hn card ref amount mask device =>
    ⟨h.1.takeCollection h.2.table _ hn card ref amount mask device,
      h.2.next hn (.takeCollection h.2.table h.1 h.2.agreed hn card ref amount mask device)
        (RecordStep.takeCollection h.2.table _ hn card ref amount mask device).table⟩
  complete := fun h op hn ha =>
    ⟨h.1.completeBy h.2.table op ha hn, h.2.next hn (.completeBy h.2.table h.2.agreed op hn ha) (RecordStep.completeBy h.2.table op hn).table⟩
  reissue := fun h hl =>
    have hn := by rw [hl]; decide
    ⟨(keptByEvents_casesOk.reissue ⟨h.2.table, h.1⟩ hl).2, h.2.next hn (.reissue h.2.table h.2.agreed hl) (RecordStep.reissue h.2.table hl).table⟩
  expire := fun h hn => ⟨h.1.expire h.2.table hn, h.2.expire h.1 hn⟩
  serve := fun h hn => ⟨h.1.serveCase h.2.table hn, h.2.serveCase hn⟩

/-! ### A case cancelled -/

/-- CANCEL_CASE takes its case to CANCELLED, and leaves the others (R24). -/
theorem LivesOn.endCase {s : State} (hw : s.tableOk) (ha : s.agreed) {c : Nat} (hc : (s.caseAt c).cancellable = true) :
    LivesOn s (s.endCase c).1 := by
  have hn := CaseRecord.live_of_cancellable hc
  have t1 := (RecordStep.withdraw hw hn).trans (.of_cases (t := (s.withdraw c).1.dropRequest c) (RecordStep.withdraw hw hn).table rfl)
  have work : Worked c s (((s.withdraw c).1.dropRequest c).placeUnblock c) :=
    ((Worked.withdraw hw).trans (.of_cases (t := (s.withdraw c).1.dropRequest c) rfl)).trans (.placeUnblock t1.table)
  have t2 := t1.trans (.placeUnblock t1.table (t1.live hn))
  have record := State.caseAt_setCase_same (((s.withdraw c).1.dropRequest c).placeUnblock c) t2.table.1 c
    ((((s.withdraw c).1.dropRequest c).placeUnblock c).caseAt c).cancelled
  have others : s.sameCasesBut (s.endCase c).1 c := fun j hj => (State.caseAt_setCase_other _ hj _).trans (work.others j hj)
  obtain ⟨desired, slots⟩ := ((work.goesOn ha).agreed ha) c
  refine ⟨(RecordStep.endCase hw hn).table, fun j => ?_, fun k hk => ?_, fun k => ?_, fun k => ?_⟩
  · by_cases e : j = c
    · subst e
      rw [show (s.endCase j).1.caseAt j = _ from record]
      exact ⟨desired, slots⟩
    · rw [others j e]; exact ha j
  · exact others k fun e => hn (e ▸ hk)
  · by_cases e : k = c
    · subst e
      rw [show (s.endCase k).1.caseAt k = _ from record]
      exact work.record.carriesOn.trans { CaseRecord.carriesOn.refl _ with }
    · rw [others k e]; exact .refl _
  · by_cases e : k = c
    · subst e
      rw [show (s.endCase k).1.caseAt k = _ from record]
      exact .inr ⟨CaseState.goesTo_cancelled hc, rfl⟩
    · rw [others k e]; exact .inl (.refl _)

/-! ### A case opened -/

/-- A case opened keeps its record but for its deadline when that has been reached already, and no other case is touched (R12, R13). -/
theorem State.caseAt_openAt_afterReached {s : State} (hw : s.tableOk) {n : Nat} (hn : n < 2048) (a : OpenArgs) :
    (∃ d, ((s.openAt n a).afterReached s).caseAt n =
      { openedRecord (s.caseAt n).inst a (s.activeRow a.operator) s.time.now with deadline := d })
    ∧ s.sameCasesBut ((s.openAt n a).afterReached s) n := by
  have table := State.openAt_tableOk hw hn a
  have record : (s.openAt n a).caseAt n = openedRecord (s.caseAt n).inst a (s.activeRow a.operator) s.time.now := by
    rw [State.caseAt_openAt hw, if_pos rfl]
  have others : s.sameCasesBut (s.openAt n a) n := fun j hj => by rw [State.caseAt_openAt hw, if_neg hj]
  have taken := State.reachedTaken_afterReached (s := s) table rfl others
  obtain ⟨d, hd, hk⟩ : ∃ d, ((s.openAt n a).caseAt n).deadline = some d ∧ d.kind = .windowEnd := ⟨_, by rw [record]; rfl, rfl⟩
  by_cases hr : (s.caseAt n).deadline = some d ∨ s.time.now < d.due
  · rw [taken.unreached fun d' hd' => by rw [hd] at hd'; cases hd'; exact hr]
    exact ⟨⟨_, record⟩, others⟩
  · simp only [not_or, not_lt] at hr
    have e := (taken.reached d hd hr.1 hr.2).windowEnd hk
    rw [e]
    have hc := State.placeRequest_cases ((s.openAt n a).setCase n { (s.openAt n a).caseAt n with deadline := none }) ⟨n, .final⟩ false
    refine ⟨⟨none, ?_⟩, fun j hj => ?_⟩
    · rw [State.caseAt_congr hc, State.caseAt_setCase_same _ table.1, record]
    · rw [State.caseAt_congr hc, State.caseAt_setCase_other _ hj, others j hj]

/-! ### O58 and O59 -/

theorem CaseRecord.agreed_of_blank {r : CaseRecord} (ho : r.outstanding = none) (hw : r.wanted = []) :
    r.carriesDesired ∧ r.slotsAgree :=
  ⟨CaseRecord.carriesDesired_of_none ho, fun _ _ g hg => by rw [hw] at hg; cases hg⟩

theorem State.agreed.step {s t : State} {c : Instr} (hw : s.tableOk) (hc : s.casesOk) (ha : s.agreed) (h : CommandStep s c t) :
    t.agreed := by
  have begun := LivesOn.start hw ha
  have blank : ∀ {u : State} (n : Nat), s.sameCasesBut u n → (u.caseAt n).outstanding = none → (u.caseAt n).wanted = [] →
      SameTables u t → t.agreed := by
    intro u n others ho hg e j
    rw [e.caseAt]
    by_cases hj : j = n
    · subst hj; exact CaseRecord.agreed_of_blank ho hg
    · rw [others j hj]; exact ha j
  rcases h.case_events (keptByEvents_livesOn s) ⟨hc, begun⟩
    (fun n hn => ⟨(State.casesOk.endCase ⟨hw, hc⟩ hn).2, .endCase hw ha hn⟩) with h | ⟨-, n, a, -, hl, e⟩ | ⟨-, n, hn, e⟩ | ⟨-, e⟩
  · exact h.2.agreed
  · obtain ⟨hlt, -, -⟩ := State.lowestFree_spec hl
    obtain ⟨⟨d, record⟩, others⟩ := State.caseAt_openAt_afterReached hw hlt a
    exact blank n others (by rw [record]; rfl) (by rw [record]; rfl) e
  · have record := State.caseAt_releaseAt hw n
    exact blank n (fun j hj => by rw [record, if_neg hj]) (by rw [record, if_pos rfl]; rfl) (by rw [record, if_pos rfl]; rfl) e
  · intro j
    rw [e.caseAt]
    exact CaseRecord.agreed_of_blank rfl rfl

/-- Settles O58: whatever changes what a case desires runs its reconcile step, which leaves outstanding what is desired. -/
theorem outstandingActionsCarryWhatIsDesired : Obligations.OutstandingActionsCarryWhatIsDesired := by
  intro s t hw hc ha h
  refine State.agreed_iff.mp (step_keeps (P := fun s => (s.tableOk ∧ s.casesOk) ∧ s.agreed) (fun _ _ => id)
    (fun _ _ _ k h => ⟨State.casesOk.step k.1 h, State.agreed.step k.1.1 k.1.2 k.2 h⟩) ⟨⟨hw, hc⟩, State.agreed_iff.mpr ha⟩ h).2

/-- Settles O59: every event of a case moves its record along, and only opening and release leave and reach FREE. -/
theorem caseLivesAreLawful : Obligations.CaseLivesAreLawful := by
  intro c s t k hw hc ha h hreset hcleared
  have ha := State.agreed_iff.mpr ha
  rcases (CommandStep.of_exec h).case_events (keptByEvents_livesOn s) ⟨hc, .start hw ha⟩
    (fun n hn => ⟨(State.casesOk.endCase ⟨hw, hc⟩ hn).2, .endCase hw ha hn⟩) with h | ⟨rfl, n, a, -, hl, e⟩ | ⟨rfl, n, hn, e⟩ | ⟨h, -⟩
  · refine ⟨fun hs _ => (h.2.carries k).goesOn ((h.2.reaches k).goesTo hs), fun hs => .inl (h.2.free k hs), fun hs ht => ?_⟩
    have := (h.2.reaches k).goesTo hs
    rw [ht] at this
    cases hx : (s.caseAt k).state <;> simp_all [CaseState.goesTo, CaseState.leadsTo]
  · obtain ⟨hlt, hf, -⟩ := State.lowestFree_spec hl
    obtain ⟨⟨d, record⟩, others⟩ := State.caseAt_openAt_afterReached hw hlt a
    rw [e.caseAt]
    by_cases hk : k = n
    · subst hk
      rw [record]
      exact ⟨fun hs => absurd hf hs, fun _ => .inr ⟨rfl, rfl, rfl⟩, fun hs => absurd hf hs⟩
    · rw [others k hk]
      exact ⟨fun hs _ => (CaseRecord.carriesOn.refl _).goesOn (CaseState.movesTo.goesTo (.refl _) hs), fun _ => .inl rfl,
        fun hs ht => absurd ht hs⟩
  · rw [e.caseAt, State.caseAt_releaseAt hw]
    by_cases hk : k = n
    · subst hk
      rw [if_pos rfl]
      refine ⟨fun _ ht => absurd rfl ht, fun hs => ?_, fun _ _ => ⟨rfl, hn, rfl⟩⟩
      rcases hn with e | e <;> rw [e] at hs <;> cases hs
    · rw [if_neg hk]
      exact ⟨fun hs _ => (CaseRecord.carriesOn.refl _).goesOn (CaseState.movesTo.goesTo (.refl _) hs), fun _ => .inl rfl,
        fun hs ht => absurd ht hs⟩
  · rcases h with rfl | rfl
    · exact absurd rfl hreset
    · exact absurd rfl hcleared

end Sys2Proof.Machine
end

section
/-! PROOFS. The control path (O57): the Control Unit, the CP output, the intake queue's conditions and the bank switch stay in
agreement. What a command leaves of the path is said once (`State.pathKept`); each command that moves along the path has one case. -/

namespace Sys2Proof.Machine

/-! ### What a step leaves of the path -/

/-- A step that leaves the queues along the path, the source being sent and its parcel, and lets control parcels go only from behind
the head. -/
structure State.pathKept (s t : State) : Prop where
  parcels : ∀ p ∈ t.cp.queue, p ∈ s.cp.queue
  head : t.headParcel = s.headParcel
  sending : t.cp.sending = s.cp.sending
  queue : t.intake.queue = s.intake.queue
  init : t.init = s.init
  buffer : t.dp.buffer = s.dp.buffer
  forward : t.forward = s.forward
  notice : s.cp.sending = some .notice → t.notices.parcel = s.notices.parcel

theorem State.pathKept.of_eq {s t : State} (cp : t.cp.queue = s.cp.queue) (sending : t.cp.sending = s.cp.sending)
    (queue : t.intake.queue = s.intake.queue) (init : t.init = s.init) (buffer : t.dp.buffer = s.dp.buffer)
    (forward : t.forward = s.forward) (notice : t.notices.parcel = s.notices.parcel) : s.pathKept t :=
  ⟨fun p hp => cp ▸ hp, by unfold State.headParcel; rw [cp], sending, queue, init, buffer, forward, fun _ => notice⟩

theorem State.pathKept.inDisposition {s t : State} (h : s.pathKept t) : t.inDisposition = s.inDisposition := by
  unfold State.inDisposition
  rw [h.queue]

theorem State.pathKept.trans {s t u : State} (h : s.pathKept t) (k : t.pathKept u) : s.pathKept u :=
  ⟨fun p hp => h.parcels p (k.parcels p hp), k.head.trans h.head, k.sending.trans h.sending, k.queue.trans h.queue,
    k.init.trans h.init, k.buffer.trans h.buffer, k.forward.trans h.forward,
    fun e => (k.notice (h.sending.trans e)).trans (h.notice e)⟩

theorem PartStep.pathKept {s t : State} (h : PartStep s t) : s.pathKept t := by
  have hn : t.notices.parcel = s.notices.parcel := by rw [h.notices]
  exact .of_eq (by rw [h.frame]) (by rw [h.frame]) (by rw [h.frame]) (by rw [h.frame]) (by rw [h.frame]) (by rw [h.frame]) hn

theorem PartStep.control {s t : State} (h : PartStep s t) : t.control = s.control := by rw [h.frame]
theorem PartStep.intake {s t : State} (h : PartStep s t) : t.intake = s.intake := by rw [h.frame]

/-- A step that also leaves the Control Unit, the intercept values, the switch and the operation in flight keeps the agreement. -/
theorem State.controlOk.kept {s t : State} (k : s.controlOk) (h : s.pathKept t) (phase : t.control.phase = s.control.phase)
    (requested : t.intake.requested = s.intake.requested) (effective : t.intake.effective = s.intake.effective)
    (switch : t.policy.switchPending = s.policy.switchPending)
    (flight : s.settle.inFlight.isSome = true → t.settle.inFlight.isSome = true) : t.controlOk where
  parcels := fun p hp => k.parcels p (h.parcels p hp)
  executing := by rw [phase, h.head]; exact k.executing
  offering := by rw [phase, h.head]; exact k.offering
  intercept := by rw [phase, h.inDisposition, requested, effective]; exact k.intercept
  waiting := by rw [h.queue]; exact k.waiting
  disposing := by rw [h.inDisposition, h.queue]; exact k.disposing
  switch := by rw [switch, phase]; exact k.switch
  pending := fun e => flight (k.pending (switch ▸ e))
  initializing := by rw [h.init, h.buffer, h.queue, h.forward, switch]; exact k.initializing
  reply := by unfold State.offersReply; rw [h.sending, phase]; exact k.reply
  notice := fun e => by rw [h.notice (h.sending ▸ e)]; exact k.notice (h.sending ▸ e)
  forward := by rw [h.sending, h.forward]; exact k.forward

theorem PartStep.controlOk {s t : State} (h : PartStep s t) (k : s.controlOk) : t.controlOk :=
  k.kept h.pathKept (by rw [h.control]) (by rw [h.intake]) (by rw [h.intake]) (by rw [h.policy]) (by rw [h.inFlight]; exact id)

theorem State.controlOk.logException {s : State} (k : s.controlOk) (c : Option Nat) (b : Option CardId) (d : Option DeviceId)
    (x : ExceptionDetail) : (s.logException c b d x).controlOk := (PartStep.logException s c b d x).controlOk k

/-! ### The Control Unit -/

/-- While a command entry is executed no command holds the unit, so no switch is pending (R147, R163). -/
theorem State.nextEntry_some {s : State} {entry : List Byte} (h : s.nextEntry = some entry) :
    ∃ replies p, s.control.phase = .executing replies none ∧ s.headParcel = some p ∧ p.entries[replies.length]? = some entry := by
  unfold State.nextEntry at h
  split at h
  · next replies p hp hh => exact ⟨replies, p, hp, hh, h⟩
  · cases h

theorem State.controlOk.quiet {s : State} (k : s.controlOk) {replies : List ReplyEntry} (h : s.control.phase = .executing replies none) :
    s.policy.switchPending = false := by
  rw [Bool.eq_false_iff]
  intro e
  obtain ⟨r, hr⟩ := k.switch.mp e
  rw [h] at hr
  cases hr

/-- While a command is executed no reply is offered, so none is being sent (R54, R163). -/
theorem State.controlOk.not_replying {s : State} (k : s.controlOk) {replies : List ReplyEntry} {held : Option HeldCommand}
    (h : s.control.phase = .executing replies held) : s.cp.sending ≠ some .reply := by
  intro e
  have := k.reply e
  simp [State.offersReply, h] at this

/-- The command under execution is answered, and with it a bank switch that waited is no longer pending (R163, R164). -/
theorem State.controlOk.answered {s t : State} (k : s.controlOk) (h : s.pathKept t) {replies : List ReplyEntry}
    {held : Option HeldCommand} (phase : s.control.phase = .executing replies held) {e : ReplyEntry} (answer : t.control.phase =
      phaseAfter ((s.headParcel.map (fun p => p.entries.length)).getD 0) (replies ++ [e]))
    (switch : t.policy.switchPending = false) : t.controlOk := by
  obtain ⟨p, hp, hlt⟩ := k.executing replies held phase
  rw [hp, Option.map_some, Option.getD_some] at answer
  unfold phaseAfter at answer
  have none_held : ∀ r c, t.control.phase ≠ .executing r (some c) := by
    intro r c e
    rw [e] at answer
    split at answer <;> cases answer
  exact {
    parcels := fun q hq => k.parcels q (h.parcels q hq)
    executing := fun r c e => by
      refine ⟨p, h.head.trans hp, ?_⟩
      rw [e] at answer
      split at answer
      · cases answer; assumption
      · cases answer
    offering := fun r e => by
      refine ⟨p, h.head.trans hp, ?_⟩
      rw [e] at answer
      split at answer
      · cases answer
      · next hge =>
        cases answer
        simp only [List.length_append, List.length_singleton] at hge ⊢
        omega
    intercept := fun r e => absurd e (none_held r _)
    waiting := by rw [h.queue]; exact k.waiting
    disposing := by rw [h.inDisposition, h.queue]; exact k.disposing
    switch := by rw [switch]; exact ⟨fun e => (by cases e), fun ⟨r, e⟩ => absurd e (none_held r _)⟩
    pending := fun e => by rw [switch] at e; cases e
    initializing := fun e => by
      obtain ⟨hb, hq, hf, -⟩ := k.initializing (h.init ▸ e)
      rw [h.buffer, h.queue, h.forward]
      exact ⟨hb, hq, hf, switch⟩
    reply := fun e => absurd (h.sending ▸ e) (k.not_replying phase)
    notice := fun e => by rw [h.notice (h.sending ▸ e)]; exact k.notice (h.sending ▸ e)
    forward := by rw [h.sending, h.forward]; exact k.forward }

/-- A reply entry written by the unit while it executes a command (R163). -/
theorem State.writeReply_phase {s : State} {replies : List ReplyEntry} {held : Option HeldCommand}
    (h : s.control.phase = .executing replies held) (e : ReplyEntry) : (s.writeReply e).control.phase =
      phaseAfter ((s.headParcel.map (fun p => p.entries.length)).getD 0) (replies ++ [e]) := by
  unfold State.writeReply
  rw [h]

theorem State.pathKept.writeReply {s t : State} (h : s.pathKept t) (e : ReplyEntry) : s.pathKept (t.writeReply e) :=
  h.trans (.of_eq (by simp) (by simp) (by simp) (by simp) (by simp) (by simp) (by simp))

/-! ### The intake queue -/

/-- The head parcel is IN_DISPOSITION. -/
theorem State.inDisposition_cons {s : State} {p : IntakeParcel} {rest : List IntakeParcel} (h : s.intake.queue = p :: rest) :
    s.inDisposition = decide (p.condition = .inDisposition) := by
  unfold State.inDisposition
  rw [h]

/-- An initializing part has an empty intake queue (R32). -/
theorem State.controlOk.ready {s : State} (k : s.controlOk) (h : s.intake.queue ≠ []) : s.init = .ready := by
  cases hi : s.init with
  | ready => rfl
  | initializing => exact absurd (k.initializing hi).2.1 h

/-- The head parcel of the intake queue replaced, or taken away: where no INTERCEPT waits for it the path stays in agreement. -/
theorem State.controlOk.newHead {s t : State} (k : s.controlOk) (ready : t.init = .ready) (parcels : t.cp.queue = s.cp.queue)
    (sending : t.cp.sending = s.cp.sending) (phase : t.control.phase = s.control.phase)
    (held : ∀ replies, s.control.phase = .executing replies (some .intercept) → t.inDisposition = true ∧ t.intake.requested ≠ t.intake.effective)
    (waiting : ∀ p ∈ t.intake.queue.tail, p.condition = .waiting)
    (disposing : t.inDisposition = true → t.intake.queue.head?.any (fun p => p.records.any IntakeRecord.unmarked) = true)
    (policy : t.policy = s.policy) (flight : t.settle.inFlight = s.settle.inFlight) (notices : t.notices.parcel = s.notices.parcel)
    (forward : s.forward ≠ [] → t.forward ≠ []) : t.controlOk where
  parcels := by rw [parcels]; exact k.parcels
  executing := by unfold State.headParcel; rw [phase, parcels]; exact k.executing
  offering := by unfold State.headParcel; rw [phase, parcels]; exact k.offering
  intercept := by rw [phase]; exact held
  waiting := waiting
  disposing := disposing
  switch := by rw [policy, phase]; exact k.switch
  pending := by rw [policy, flight]; exact k.pending
  initializing := fun e => by rw [ready] at e; cases e
  reply := by unfold State.offersReply; rw [sending, phase]; exact k.reply
  notice := by rw [sending, notices]; exact k.notice
  forward := fun e => forward (k.forward (sending ▸ e))

theorem State.controlOk.writeReply {s : State} (k : s.controlOk) {replies : List ReplyEntry} {held : Option HeldCommand}
    (phase : s.control.phase = .executing replies held) (switch : s.policy.switchPending = false) (e : ReplyEntry) :
    (s.writeReply e).controlOk :=
  k.answered (State.pathKept.writeReply (.of_eq rfl rfl rfl rfl rfl rfl rfl) e) phase (State.writeReply_phase phase e) (by simpa using switch)

/-- The completion of a held command is its answer, or nothing where another command or none holds the unit. -/
theorem State.completeHeld_answers (s : State) (command : HeldCommand) :
    (∃ replies, s.control.phase = .executing replies (some command) ∧ s.completeHeld command = s.writeReply ⟨command.code, .ok, .none⟩)
    ∨ ((∀ replies, s.control.phase ≠ .executing replies (some command)) ∧ s.completeHeld command = s) := by
  unfold State.completeHeld
  split
  · next r h hp =>
    split
    · next e => subst e; exact .inl ⟨r, hp, rfl⟩
    · next e => exact .inr ⟨fun r' hr => by rw [hp] at hr; cases hr; exact e rfl, rfl⟩
  · next hp => exact .inr ⟨fun r hr => hp r command hr, rfl⟩

/-- A reply entry written after the intake queue has changed. -/
theorem State.writeReply_with_intake (s : State) (i : IntakeUnit) (e : ReplyEntry) :
    State.writeReply { s with intake := i } e = { s.writeReply e with intake := i } := by
  unfold State.writeReply
  dsimp only
  cases s.control.phase <;> rfl

/-- The mark of the head parcel's next record, and at its last the boundary with the answer of a held INTERCEPT (R41, R48, R49). -/
theorem State.controlOk.markHead {s : State} (k : s.controlOk) (m : Mark) : (s.markHead m).controlOk := by
  unfold State.markHead
  split
  · exact k
  · next p rest hq =>
    have ready := k.ready (by rw [hq]; simp)
    have waiting : ∀ q ∈ rest, q.condition = .waiting := by have := k.waiting; rw [hq] at this; exact this
    dsimp only
    split
    · next hm =>
      have not_disposing : ∀ t : State, t.intake.queue = p.afterMark m :: rest → t.inDisposition = false := fun t ht => by
        rw [State.inDisposition_cons ht, hm]; rfl
      have boundary : ∀ u : State, u.controlOk → (∀ r, u.control.phase ≠ .executing r (some .intercept)) → u.init = s.init →
          State.controlOk { u with intake := ⟨p.afterMark m :: rest, s.intake.requested, s.intake.requested⟩ } := by
        intro u ku free init
        have off := not_disposing { u with intake := ⟨p.afterMark m :: rest, s.intake.requested, s.intake.requested⟩ } rfl
        exact ku.newHead (init.trans ready) rfl rfl rfl (fun r e => absurd e (free r)) waiting
          (fun e => by rw [off] at e; cases e) rfl rfl rfl id
      unfold State.boundary
      rcases State.completeHeld_answers { s with intake := ⟨p.afterMark m :: rest, s.intake.requested, s.intake.requested⟩ } .intercept
        with ⟨r, hp, e⟩ | ⟨free, e⟩
      · have hp : s.control.phase = .executing r (some .intercept) := hp
        have quiet : s.policy.switchPending = false := by
          rw [Bool.eq_false_iff]
          intro hs
          obtain ⟨r', hr⟩ := k.switch.mp hs
          rw [hp] at hr
          cases hr
        rw [e, State.writeReply_with_intake]
        refine boundary _ (k.writeReply hp quiet _) (fun r' hr => ?_) (by simp)
        rw [State.writeReply_phase hp] at hr
        unfold phaseAfter at hr
        split at hr <;> cases hr
      · rw [e]
        exact boundary s k free rfl
    · next hm =>
      have still : p.afterMark m = { p.afterMark m with condition := .inDisposition } := by
        unfold IntakeParcel.afterMark at hm ⊢
        dsimp only at hm ⊢
        split at hm
        · next hu => rw [if_pos hu]
        · exact absurd rfl hm
      have some_unmarked : (p.afterMark m).records.any IntakeRecord.unmarked = true := by
        unfold IntakeParcel.afterMark at hm ⊢
        dsimp only at hm ⊢
        split at hm
        · assumption
        · exact absurd rfl hm
      refine k.newHead ready rfl rfl rfl (fun r e => ⟨?_, (k.intercept r e).2⟩) waiting (fun _ => some_unmarked) rfl rfl rfl id
      rw [State.inDisposition_cons (p := p.afterMark m) (rest := rest) rfl, still]
      rfl

/-! ### Completions and rules -/

/-- A completion leaves its place, and the flip that waited for it is taken and answered (R79, R147). -/
theorem State.controlOk.completeOperation {s : State} (k : s.controlOk) {op : Operation} (h : s.settle.inFlight = some op) :
    s.completeOperation.controlOk := by
  obtain ⟨u, part, e⟩ := State.completeOperation_steps h
  rw [e]
  have kept : s.pathKept u := State.pathKept.trans (s := s) (t := { s with settle := { s.settle with inFlight := none } })
    (.of_eq rfl rfl rfl rfl rfl rfl rfl) part.pathKept
  have control : u.control = s.control := part.control
  have intake : u.intake = s.intake := part.intake
  have policy : u.policy = s.policy := part.policy
  unfold State.flipIfPending
  split
  · next hs =>
    rw [policy] at hs
    obtain ⟨r, hr⟩ := k.switch.mp hs
    have hf : u.flip.control.phase = .executing r (some .switchPolicy) := by rw [← hr, ← control]; rfl
    rcases State.completeHeld_answers u.flip .switchPolicy with ⟨r', hr', e⟩ | ⟨free, -⟩
    · rw [e]
      have kf : s.pathKept u.flip := kept.trans (.of_eq rfl rfl rfl rfl rfl rfl rfl)
      rw [hf] at hr'
      cases hr'
      refine k.answered (kf.writeReply _) hr (e := ⟨HeldCommand.switchPolicy.code, .ok, .none⟩) ((State.writeReply_phase hf _).trans ?_) (by rw [State.writeReply_policy]; rfl)
      rw [kf.head]
    · exact absurd hf (free r)
  · next hs =>
    have off : s.policy.switchPending = false := by rw [← policy]; simpa using hs
    have none_flight : u.policy.switchPending = true → u.settle.inFlight.isSome = true := fun e => absurd e hs
    exact {
      k.kept (t := { u with settle := s.settle }) ⟨kept.parcels, kept.head, kept.sending, kept.queue, kept.init, kept.buffer, kept.forward, kept.notice⟩
        (by rw [← control]) (by rw [← intake]) (by rw [← intake]) (by rw [← policy]) id with
      pending := none_flight }

theorem State.pathKept.softReset (s : State) : s.pathKept s.softReset := by
  have head : ∀ q : List ControlParcel, (q.take 1).head? = q.head? := by intro q; cases q <;> rfl
  have queue : s.withdrawNotice.cp = s.cp := by unfold State.withdrawNotice; split <;> rfl
  refine ⟨fun p hp => ?_, ?_, ?_, ?_, ?_, ?_, ?_, fun e => ?_⟩
  · rw [← queue]; exact List.mem_of_mem_take hp
  · show (s.withdrawNotice.cp.queue.take 1).head? = s.cp.queue.head?
    rw [head, queue]
  all_goals unfold State.softReset State.withdrawNotice
  · split <;> rfl
  · split <;> rfl
  · split <;> rfl
  · split <;> rfl
  · split <;> rfl
  · simp [e]

/-- What the rule of a command entry leaves of the path. -/
theorem RuleStep.path {s u : State} {c : Instr} {a : Response} (h : RuleStep s c u a) :
    s.pathKept u ∧ u.control.phase = s.control.phase := by
  have same : ∀ {u : State}, PartStep s u → s.pathKept u ∧ u.control.phase = s.control.phase := fun part =>
    ⟨part.pathKept, by rw [part.control]⟩
  cases h with
  | @opened n a st res accepted free =>
    obtain ⟨-, -, -, -, -, -, -, -, -, -, room⟩ := State.openRefusal_none accepted
    have part := (CaseStep.openAt n a room).part.afterReached s
    exact ⟨State.pathKept.trans (s := s) (t := { s with index := (s.openAt n a).index }) (.of_eq rfl rfl rfl rfl rfl rfl rfl) part.pathKept,
      by rw [part.control]⟩
  | cancelled => exact same (.cancelAt s _)
  | released => exact ⟨.of_eq rfl rfl rfl rfl rfl rfl rfl, rfl⟩
  | forced => exact same (.placeRequest s _ _)
  | reissued => exact same (.reissueAt s _)
  | standbyRow =>
    unfold State.setStandbyRow
    split <;> exact ⟨.of_eq rfl rfl rfl rfl rfl rfl rfl, rfl⟩
  | logCleared a => cases a <;> exact ⟨.of_eq rfl rfl rfl rfl rfl rfl rfl, rfl⟩
  | softReset =>
    refine ⟨.softReset s, ?_⟩
    unfold State.softReset State.withdrawNotice
    split <;> rfl
  | stays | window | rangeRow | flipped | switching | intercepting | intercepted | timeSet | counters | masks =>
    exact ⟨.of_eq rfl rfl rfl rfl rfl rfl rfl, rfl⟩

/-- A rule that replies leaves no switch pending where none was; one that holds the unit sets what it waits for. -/
theorem RuleStep.response {s u : State} {c : Instr} {a : Response} (h : RuleStep s c u a) (quiet : s.policy.switchPending = false) :
    (∃ status result, a = .reply status result ∧ u.policy.switchPending = false)
    ∨ (c = .switchPolicy ∧ a = .hold .switchPolicy ∧ u = { s with policy := { s.policy with switchPending := true } } ∧ s.settle.inFlight.isSome = true)
    ∨ ∃ value, a = .hold .intercept ∧ u = { s with intake := { s.intake with requested := value } } ∧ s.inDisposition = true
        ∧ s.intake.effective ≠ value := by
  have same : ∀ {u : State} {status result}, u.policy = s.policy → a = .reply status result →
      ∃ status result, a = .reply status result ∧ u.policy.switchPending = false := fun e h => ⟨_, _, h, by rw [e]; exact quiet⟩
  cases h with
  | switching busy => exact .inr (.inl ⟨rfl, rfl, rfl, busy⟩)
  | intercepting disposing differs => exact .inr (.inr ⟨_, rfl, rfl, disposing, differs⟩)
  | flipped => exact .inl ⟨_, _, rfl, rfl⟩
  | opened => exact .inl (same (by simp [State.openAt]) rfl)
  | cancelled => exact .inl (same (PartStep.cancelAt s _).policy rfl)
  | reissued => exact .inl (same (PartStep.reissueAt s _).policy rfl)
  | forced => exact .inl (same (by simp) rfl)
  | standbyRow =>
    refine .inl ⟨_, _, rfl, ?_⟩
    unfold State.setStandbyRow
    split <;> exact quiet
  | softReset =>
    refine .inl (same ?_ rfl)
    unfold State.softReset State.withdrawNotice
    split <;> rfl
  | stays | released | window | rangeRow | intercepted | timeSet | counters | masks | logCleared => exact .inl (same rfl rfl)

/-- A command entry executed answers it, or holds the unit for what it waits for (R48, R147, R163). -/
theorem State.controlOk.ruled {s u : State} (k : s.controlOk) {c : Instr} {a : Response} {entry : List Byte} (code : Byte)
    (next : s.nextEntry = some entry) (ready : s.init = .ready ∨ c = .readStatus) (rule : RuleStep s c u a) : (u.finish code a).controlOk := by
  obtain ⟨r, p, hp, hh, hl⟩ := State.nextEntry_some next
  obtain ⟨kept, phase⟩ := rule.path
  have quiet := k.quiet hp
  have below : r.length < p.entries.length := (List.getElem?_eq_some_iff.mp hl).1
  have hu : u.control.phase = .executing r none := phase.trans hp
  rcases rule.response quiet with ⟨status, result, rfl, off⟩ | ⟨rfl, rfl, rfl, busy⟩ | ⟨value, rfl, rfl, disposing, differs⟩
  · refine k.answered (kept.writeReply _) hp (e := ⟨code, status, result⟩) ((State.writeReply_phase hu _).trans ?_)
      (by simpa [State.finish] using off)
    rw [kept.head]
  · have ready : s.init = .ready := ready.resolve_right (by decide)
    unfold State.finish
    simp only [hp]
    exact { k with
      executing := fun r' h' e => by cases e; exact ⟨p, hh, below⟩
      offering := fun r' e => by cases e
      intercept := fun r' e => by cases e
      switch := ⟨fun _ => ⟨r, rfl⟩, fun _ => rfl⟩
      pending := fun _ => busy
      initializing := fun e => by rw [show s.init = _ from e] at ready; cases ready
      reply := fun e => absurd e (k.not_replying hp) }
  · unfold State.finish
    simp only [hp]
    exact { k with
      executing := fun r' h' e => by cases e; exact ⟨p, hh, below⟩
      offering := fun r' e => by cases e
      intercept := fun r' e => ⟨disposing, fun h => differs h.symm⟩
      switch := ⟨fun e => absurd (quiet.symm.trans e) (by decide), fun ⟨r', e⟩ => (by cases e)⟩
      reply := fun e => absurd e (k.not_replying hp) }

/-! ### Every command -/

/-- A parcel that passes the header checks has as many entries as its header says, within the maximum of its kind (R34). -/
theorem checkParcel_ok {payload : List Byte} {p : Parcel} (h : checkParcel payload = .ok p) :
    p.entries.length = p.header.count.toNat ∧ 1 ≤ p.header.count.toNat ∧ p.header.count.toNat ≤ p.header.kind.maxCount := by
  unfold checkParcel at h
  dsimp only at h
  split at h
  · cases h
  · split at h
    · cases h
    · split at h
      · cases h
      · split at h
        · cases h
        · next hcount =>
          split at h
          · cases h
          · next entries he =>
            cases h
            have length : entries.length = ((parcelBytes payload).getD 7 0).toNat := by
              split at he
              · exact (splitRecords_eq_some.mp he).1
              · exact (walkEntries_eq_some.mp he).1
            simp only [not_or, not_lt] at hcount
            exact ⟨length, Nat.one_le_iff_ne_zero.mpr hcount.1, hcount.2⟩

theorem State.reset_controlOk : State.reset.controlOk where
  parcels := fun p hp => by cases hp
  executing := fun r h e => by cases e
  offering := fun r e => by cases e
  intercept := fun r e => by cases e
  waiting := fun p hp => by cases hp
  disposing := fun e => by cases e
  switch := ⟨fun e => (by cases e), fun ⟨r, e⟩ => (by cases e)⟩
  pending := fun e => by cases e
  initializing := fun _ => ⟨rfl, rfl, rfl, rfl⟩
  reply := fun e => by cases e
  notice := fun e => by cases e
  forward := fun e => by cases e

/-- The end of initialization finds the path empty, and no command that waits for it (R32, R166). -/
theorem State.controlOk.cleared {s : State} (k : s.controlOk) (period : s.init = .initializing) : s.cleared.controlOk := by
  obtain ⟨-, hq, hf, hs⟩ := k.initializing period
  have idle : s.inDisposition = false := by unfold State.inDisposition; rw [hq]
  exact { k with
    intercept := fun r e => absurd ((k.intercept r e).1.symm.trans idle) (by decide)
    waiting := fun p hp => by cases hp
    disposing := fun e => by cases e
    switch := ⟨fun e => (by cases e), fun h => absurd (hs.symm.trans (k.switch.mpr h)) (by decide)⟩
    pending := fun e => by cases e
    initializing := fun e => by cases e
    forward := fun e => absurd hf (k.forward e) }

/-- A control parcel that joins the queue leaves the head where there was one (R162). -/
theorem State.controlOk.queued {s : State} (k : s.controlOk) {p : ControlParcel} (hp : p.sound) :
    State.controlOk { s with cp := { s.cp with queue := s.cp.queue ++ [p] } } := by
  have head : ∀ {q : ControlParcel}, s.headParcel = some q → (s.cp.queue ++ [p]).head? = some q := fun h => by
    rw [List.head?_append, show s.cp.queue.head? = _ from h]; rfl
  exact { k with
    parcels := fun q hq => by
      rcases List.mem_append.mp hq with h | h
      · exact k.parcels q h
      · rw [List.mem_singleton.mp h]; exact hp
    executing := fun r h e => by
      obtain ⟨q, hq, hl⟩ := k.executing r h e
      exact ⟨q, head hq, hl⟩
    offering := fun r e => by
      obtain ⟨q, hq, hl⟩ := k.offering r e
      exact ⟨q, head hq, hl⟩ }

/-- An UPLOAD parcel joins the intake queue WAITING (R33). -/
theorem State.controlOk.taken {s : State} (k : s.controlOk) (full : s.dp.buffer ≠ []) {p : IntakeParcel} (hp : p.condition = .waiting) :
    State.controlOk { s with dp := { s.dp with buffer := s.dp.buffer.tail }, intake := { s.intake with queue := s.intake.queue ++ [p] } } := by
  have ready : s.init = .ready := by
    cases hi : s.init with
    | ready => rfl
    | initializing => exact absurd (k.initializing hi).1 full
  cases hq : s.intake.queue with
  | nil =>
    have off : s.inDisposition = false := by unfold State.inDisposition; rw [hq]
    exact { k with
      intercept := fun r e => absurd ((k.intercept r e).1.symm.trans off) (by decide)
      waiting := fun q h => (by cases h)
      disposing := fun e => by
        rw [State.inDisposition_cons (p := p) (rest := []) rfl, hp] at e
        cases e
      initializing := fun e => absurd (ready.symm.trans e) (by decide) }
  | cons q rest =>
    have waiting := k.waiting
    have disposing := k.disposing
    rw [hq] at waiting disposing
    have same := State.inDisposition_cons hq
    exact { k with
      intercept := fun r e => by
        rw [State.inDisposition_cons (p := q) (rest := rest ++ [p]) rfl, ← same]
        exact k.intercept r e
      waiting := fun x hx => by
        rcases List.mem_append.mp hx with h | h
        · exact waiting x h
        · rw [List.mem_singleton.mp h]; exact hp
      disposing := fun e => by
        rw [State.inDisposition_cons (p := q) (rest := rest ++ [p]) rfl, ← same] at e
        exact disposing e
      initializing := fun e => absurd (ready.symm.trans e) (by decide) }

theorem State.controlOk.exec {c : Instr} {s t : State} (k : s.controlOk) (h : CommandStep s c t) : t.controlOk := by
  have buffer : ∀ b : DevicePort, (s.init = .initializing → b.buffer = []) → State.controlOk { s with dp := b } := fun b hb =>
    { k with initializing := fun e => ⟨hb e, (k.initializing e).2⟩ }
  cases h with
  | idle => exact k
  | refused c e next =>
    obtain ⟨r, p, hp, -, -⟩ := State.nextEntry_some next
    exact k.writeReply hp (k.quiet hp) e
  | ruled next ready rule => exact k.ruled _ next ready rule
  | hardReset => exact { State.reset_controlOk with }
  | cleared period => exact k.cleared period
  | linkDown port =>
    cases port with
    | device => exact k.kept (.of_eq rfl rfl rfl rfl rfl rfl rfl) rfl rfl rfl rfl id
    | clearing => exact { k with reply := fun e => (by cases e), notice := fun e => (by cases e), forward := fun e => (by cases e) }
  | linkUp port => cases port <;> exact k.kept (.of_eq rfl rfl rfl rfl rfl rfl rfl) rfl rfl rfl rfl id
  | dpDiscarded | dpCounted => exact buffer _ fun e => (k.initializing e).1
  | dpBuffered f ready => exact buffer _ fun e => by rw [e] at ready; cases ready
  | dpLogged => exact State.controlOk.logException (by exact { k with }) _ _ _ _
  | cpLogged => exact k.logException _ _ _ _
  | cpQueued f passed kind room =>
    obtain ⟨length, low, high⟩ := checkParcel_ok passed
    rw [kind] at high
    exact k.queued ⟨kind, length.symm, by rw [length]; exact low, by rw [length]; exact high⟩
  | cpDropped => exact State.controlOk.logException (by exact { k with }) _ _ _ _
  | intakeDropped x =>
    exact State.controlOk.logException (buffer { s.dp with buffer := s.dp.buffer.tail } fun e => by rw [(k.initializing e).1]; rfl) _ _ _ _
  | intakeTaken full room =>
    obtain ⟨u, rfl, h⟩ := s.takeUpload_cases _
    rcases h with h | ⟨_, _, _, h⟩ <;> rw [h]
    · exact k.taken full rfl
    · exact (k.taken full rfl).logException _ _ _ _
  | @dispositionStarted p rest head waiting =>
    have off : s.inDisposition = false := by rw [State.inDisposition_cons head, waiting]; rfl
    refine k.newHead (k.ready (by rw [head]; simp)) rfl rfl rfl (fun r e => ?_) ?_ (fun e => ?_) rfl rfl rfl id
    · rw [(k.intercept r e).1] at off; cases off
    · have := k.waiting
      rw [head] at this
      exact this
    · rw [State.inDisposition_cons (p := p.started) (rest := rest) rfl] at e
      show p.records.any IntakeRecord.unmarked = true
      by_contra hn
      simp [IntakeParcel.started, hn] at e
  | disposed head =>
    obtain ⟨u, m, h1, h2⟩ := s.disposeHead_steps _
    exact h2.controlOk ((h1.controlOk k).markHead m)
  | @forwarded p rest head marked room =>
    have off : s.inDisposition = false := by rw [State.inDisposition_cons head, marked]; rfl
    have waiting := k.waiting
    rw [head] at waiting
    refine k.newHead (k.ready (by rw [head]; simp)) rfl rfl rfl (fun r e => ?_) (fun q hq => waiting q (List.mem_of_mem_tail hq))
      (fun e => ?_) rfl rfl rfl fun _ => by simp
    · rw [(k.intercept r e).1] at off; cases off
    · cases rest with
      | nil => cases e
      | cons q rest =>
        rw [State.inDisposition_cons (p := q) (rest := rest) rfl, waiting q (by simp)] at e
        cases e
  | granted free =>
    have first : ∀ x, s.firstSource = some x → (x = .reply → s.offersReply = true) ∧ (x = .notice → s.notices.parcel.isSome = true)
        ∧ (x = .forward → s.forward ≠ []) := by
      intro x hx
      unfold State.firstSource at hx
      split at hx
      · next h => cases hx; simp [h]
      · split at hx
        · next h => cases hx; simp [h]
        · split at hx
          · cases hx
          · next h => cases hx; simpa using h
    exact { k with
      reply := fun e => (first _ e).1 rfl
      notice := fun e => (first _ e).2.1 rfl
      forward := fun e => (first _ e).2.2 rfl }
  | @sent source sending =>
    cases source with
    | reply =>
      have offers := k.reply sending
      exact { k with
        parcels := fun p hp => k.parcels p (List.mem_of_mem_tail hp)
        executing := fun r h e => (by cases e)
        offering := fun r e => (by cases e)
        intercept := fun r e => (by cases e)
        switch := ⟨fun e => (by
          obtain ⟨r, hr⟩ := k.switch.mp e
          simp [State.offersReply, hr] at offers), fun ⟨r, e⟩ => (by cases e)⟩
        reply := fun e => (by cases e), notice := fun e => (by cases e), forward := fun e => (by cases e) }
    | notice => exact { k with reply := fun e => (by cases e), notice := fun e => (by cases e), forward := fun e => (by cases e) }
    | forward =>
      exact { k with
        initializing := fun e => absurd (k.initializing e).2.2.1 (k.forward sending)
        reply := fun e => (by cases e), notice := fun e => (by cases e), forward := fun e => (by cases e) }
  | @parcelStarted p rest idle head =>
    have sound := k.parcels p (by rw [head]; simp)
    exact { k with
      executing := fun r h e => by cases e; exact ⟨p, by unfold State.headParcel; rw [head]; rfl, sound.2.2.1⟩
      offering := fun r e => (by cases e)
      intercept := fun r e => (by cases e)
      switch := ⟨fun e => (by
        obtain ⟨r, hr⟩ := k.switch.mp e
        rw [idle] at hr
        cases hr), fun ⟨r, e⟩ => (by cases e)⟩
      reply := fun e => by
        have := k.reply e
        simp [State.offersReply, idle] at this }
  | advanced => exact { k with }
  | windowExpired => exact (PartStep.windowExpires s _ _).controlOk k
  | collectionExpired => exact ((CaseStep.collectionExpires s _ _).part.afterReached s).controlOk k
  | tailExpired => exact (CaseStep.tailExpires s _ _).part.controlOk k
  | operationStarted => exact k.kept (.of_eq rfl rfl rfl rfl rfl rfl rfl) rfl rfl rfl rfl fun _ => rfl
  | completed flight => exact k.completeOperation flight
  | actionsTaken => exact { k with }
  | actionsSent => exact s.actionsSent_steps.controlOk { k with }
  | noticeBuilt none =>
    exact { k with notice := fun e => (by have := k.notice e; rw [none] at this; cases this) }

/-- Settles O57: whatever moves along the control path moves with what waits for it. -/
theorem controlPathKept : Obligations.ControlPathKept := by
  intro s t hs h
  exact step_keeps (P := State.controlOk) (fun _ _ k => { k with }) (fun _ _ _ => State.controlOk.exec) hs h

end Sys2Proof.Machine
end

section
/-! PROOFS. The commands of the control path and of resets: the conventions of a step (O1, O2), the entry checks (O5), answers (O6),
the resets (O3, O4, O60), and which commands touch the window and the banks (O43). -/

namespace Sys2Proof.Machine

/-! ### A command entry -/

/-- Every command of Table 9-1 executes its entry, with a reader of its own and a rule of its own. -/
theorem exec_execute {c : Instr} {code : Byte} (h : commandCode c = some code) :
    ∃ (α : Type) (read : List Byte → Option α) (run : State → α → State × Response),
      ∀ s, exec c s = .next (s.execute code read run) := by
  cases c <;> cases h <;> exact ⟨_, _, _, fun _ => rfl⟩

/-- Where Table 11-5 fixes the number of argument bytes, the layout check fails on any other. -/
theorem exec_execute_of_length {c : Instr} {code : Byte} {n : Nat} (h : commandCode c = some code) (hn : argumentBytes c = some n) :
    ∃ (α : Type) (read : List Byte → Option α) (run : State → α → State × Response),
      (∀ s, exec c s = .next (s.execute code read run)) ∧ ∀ args, args.length ≠ n → read args = none := by
  cases c <;> cases h <;> cases hn <;> exact ⟨_, _, _, fun _ => rfl, fun _ h => if_neg h⟩

theorem State.execute_other {α : Type} {s : State} {code : Byte} (h : ∀ entry, s.nextEntry = some entry → entryCode entry ≠ code)
    (read : List Byte → Option α) (run : State → α → State × Response) : s.execute code read run = s := by
  unfold State.execute
  split
  · rfl
  · next entry hn => rw [if_neg (h entry hn)]

theorem State.execute_initializing {α : Type} {s : State} {entry : List Byte} {code : Byte} (hi : s.init = .initializing)
    (hc : code ≠ readStatusCode) (hn : s.nextEntry = some entry) (he : entryCode entry = code)
    (read : List Byte → Option α) (run : State → α → State × Response) :
    s.execute code read run = s.answered code .initializing .none := by
  unfold State.execute State.answered
  simp only [hn]
  rw [if_pos he, if_pos ⟨hi, hc⟩]

theorem commandCode_readStatus {c : Instr} (h : commandCode c = some readStatusCode) : c = .readStatus := by
  cases c <;> simp [commandCode, readStatusCode] at h ⊢

theorem knownCode_iff (code : Byte) : knownCode code = true ↔ 1 ≤ code.toNat ∧ code.toNat ≤ 20 := by
  simp [knownCode]

/-- UNKNOWN_COMMAND answers an entry whose code is none of the twenty. -/
theorem exec_unknownCommand {s : State} {entry : List Byte} (h : s.nextEntry = some entry) :
    exec .unknownCommand s = .next (if knownCode (entryCode entry) then s else s.answered (entryCode entry) .unknownCommand .none) := by
  show execUnknownCommand s = _
  unfold execUnknownCommand
  rw [h]
  rfl

/-! ### The queue of commands -/

theorem RuleStep.pending {s u : State} {c : Instr} {a : Response} (h : RuleStep s c u a) : u.pending = s.pending := by
  cases h with
  | opened st res accepted free =>
    obtain ⟨-, -, -, -, -, -, -, -, -, -, room⟩ := State.openRefusal_none accepted
    rw [((CaseStep.openAt _ _ room).part.afterReached s).frame]
  | cancelled => rw [(PartStep.cancelAt s _).frame]
  | reissued => rw [(PartStep.reissueAt s _).frame]
  | softReset => unfold State.softReset State.withdrawNotice; split <;> rfl
  | _ => simp [State.releaseAt, State.clearCounters]

theorem CommandStep.pending {s t : State} {c : Instr} (h : CommandStep s c t) : t.pending = s.pending := by
  cases h with
  | ruled _ _ rule => rw [State.finish_pending, rule.pending]
  | linkDown port => cases port <;> rfl
  | linkUp port => cases port <;> rfl
  | intakeTaken =>
    obtain ⟨u, rfl, h⟩ := s.takeUpload_cases _
    rcases h with h | ⟨_, _, _, h⟩ <;> rw [h]
    rfl
  | disposed =>
    obtain ⟨u, m, h1, h2⟩ := s.disposeHead_steps _
    rw [h2.frame, State.markHead_pending, h1.frame]
  | @sent source _ => cases source <;> rfl
  | windowExpired => simp [State.windowExpires]
  | collectionExpired => rw [((CaseStep.collectionExpires s _ _).part.afterReached s).frame]
  | tailExpired => rw [(CaseStep.tailExpires s _ _).frame]
  | completed flight =>
    obtain ⟨u, h1, h2⟩ := State.completeOperation_steps flight
    rw [h2, State.flipIfPending_pending, h1.frame]
  | actionsSent => rw [s.actionsSent_steps.frame]
  | refused => simp
  | _ => rfl

/-- Settles O1: `step` is `exec` on the queue's rest by definition. -/
theorem stepRunsTheFrontCommand : Obligations.StepRunsTheFrontCommand := fun _ _ => rfl

/-- Settles O2: `CommandStep` has no step that stops or touches the waiting commands; an entry of another code is not executed. -/
theorem everyCommandEndsInANextState : Obligations.EveryCommandEndsInANextState := by
  refine ⟨fun c s => ?_, fun c code s hc hn => ?_, fun s hn => ?_⟩
  · obtain ⟨t, h, k⟩ := exec_commandStep c s
    exact ⟨t, h, k.pending⟩
  · obtain ⟨α, read, run, e⟩ := exec_execute hc
    rw [e, State.execute_other hn]
  · cases h : s.nextEntry with
    | none =>
      show execUnknownCommand s = _
      unfold execUnknownCommand
      rw [h]
    | some entry => rw [exec_unknownCommand h, if_pos ((knownCode_iff _).mpr (hn entry h))]

/-! ### The layout check -/

theorem yesNo?_eq_none {n : Nat} (h : 1 < n) : yesNo? n = none := by
  unfold yesNo?
  rw [if_neg (by omega), if_neg (by omega)]

theorem readPassRecord_eq_none {bs : List Byte} (h : 3 < (bs.getD 0 0).toNat ∨ 1 < (bs.getD 3 0).toNat) :
    readPassRecord bs = none := by
  unfold readPassRecord
  dsimp only
  split
  · next hs => rw [yesNo?_eq_none (h.resolve_left (by omega))]; rfl
  · rfl

/-- A byte of a pass record stands in the arguments' bytes. -/
theorem getD_take_drop (bs : List Byte) {i : Nat} (k : Nat) (h : i < 10) : ((bs.drop (10 * k)).take 10).getD i 0 = bs.getD (10 * k + i) 0 := by
  rw [List.getD_eq_getElem?_getD, List.getD_eq_getElem?_getD, List.getElem?_take_of_lt h, List.getElem?_drop]

/-- One pass record with a slot or class outside its enumeration spoils all (R165). -/
theorem readPassRecords_eq_none : ∀ {n : Nat} {bs : List Byte},
    (∃ k, k < n ∧ readPassRecord ((bs.drop (10 * k)).take 10) = none) → readPassRecords n bs = none := by
  intro n
  induction n with
  | zero => rintro bs ⟨k, hk, -⟩; omega
  | succ n ih =>
    rintro bs ⟨k, hk, h⟩
    unfold readPassRecords
    cases k with
    | zero =>
      rw [Nat.mul_zero, List.drop_zero] at h
      rw [h]
    | succ k =>
      rw [ih (bs := bs.drop 10) ⟨k, by omega, by rw [List.drop_drop, show 10 + 10 * k = 10 * (k + 1) by ring]; exact h⟩]
      cases readPassRecord (bs.take 10) <;> rfl

/-- What OPEN_CASE's layout check refuses. -/
theorem readOpenCase_eq_none {args : List Byte} {arg : Nat → Nat} (harg : ∀ i, arg i = (args.getD i 0).toNat)
    (h : args.length ≠ 33 + 10 * arg 32 ∨ 63 < arg 14 ∨ 1 < arg 19 ∨
      ∃ k, k < arg 32 ∧ (3 < arg (33 + 10 * k) ∨ 1 < arg (36 + 10 * k))) : readOpenCase args = none := by
  have first (k i : Nat) : (args.drop 33).getD (10 * k + i) 0 = args.getD (33 + i + 10 * k) 0 := by
    rw [List.getD_eq_getElem?_getD, List.getD_eq_getElem?_getD, List.getElem?_drop]
    congr 2
    omega
  simp only [harg] at h
  unfold readOpenCase
  dsimp only
  split
  · next hlen =>
    split
    · next hop =>
      rcases h with h | h | h | ⟨k, hk, h⟩
      · exact absurd hlen h
      · omega
      · rw [yesNo?_eq_none h]
      · rw [readPassRecords_eq_none (bs := args.drop 33) ⟨k, hk, readPassRecord_eq_none ?_⟩]
        · cases yesNo? (args.getD 19 0).toNat <;> rfl
        · rw [getD_take_drop _ k (by omega), getD_take_drop _ k (by omega), first, first]
          exact h
    · rfl
  · rfl

theorem readPut_eq_none {args : List Byte} {arg : Nat → Nat} (harg : ∀ i, arg i = (args.getD i 0).toNat)
    (h : args = [] ∨ 3 < arg 0 ∨ (arg 0 = 0 ∧ args.length ≠ 20) ∨ (arg 0 = 2 ∧ args.length ≠ 18)) : readPut args = none := by
  cases args with
  | nil => rfl
  | cons table bs =>
    have h0 : arg 0 = table.toNat := harg 0
    rw [h0, List.length_cons] at h
    unfold readPut
    dsimp only
    rcases h with h | h | ⟨h, hl⟩ | ⟨h, hl⟩
    · cases h
    · split
      case h_5 => rfl
      all_goals omega
    · rw [h]; exact if_neg (by omega)
    · rw [h]; exact if_neg (by omega)

/-- Settles O5: the checks of R165 stand before the rule of every command; each reader fails on what its enumerations leave out. -/
theorem entryChecksComeFirst : Obligations.EntryChecksComeFirst := by
  refine ⟨fun s entry hn hc => ?_, fun c code s entry hc hne hi hn he => ?_, fun c code n s args hc hn htakes hl => ?_,
    fun c code s args arg hc htakes harg h => ?_⟩
  · rw [exec_unknownCommand hn, if_neg]
    rw [knownCode_iff]
    omega
  · obtain ⟨α, read, run, e⟩ := exec_execute hc
    rw [e, State.execute_initializing hi (fun h => hne (commandCode_readStatus (h ▸ hc))) hn he]
  · obtain ⟨α, read, run, e, hread⟩ := exec_execute_of_length hc hn
    rw [e, htakes.execute_of_unread (hread args hl)]
  · have refuse : ∀ {α : Type} {read : List Byte → Option α} {run : State → α → State × Response},
        exec c s = .next (s.execute code read run) → read args = none → exec c s = .next (s.answered code .badArgument .none) :=
      fun e hr => by rw [e, htakes.execute_of_unread hr]
    have byte {i : Nat} (h : 1 < arg i) : yesNo? (args.getD i 0).toNat = none := yesNo?_eq_none (by rw [← harg]; exact h)
    rcases h with ⟨rfl, h⟩ | ⟨rfl, h⟩ | ⟨rfl, h⟩ | ⟨hm, h⟩ | ⟨rfl, h⟩ | ⟨rfl, h⟩ | ⟨rfl, h, h'⟩
    · cases hc
      exact refuse rfl (readOpenCase_eq_none harg h)
    · cases hc
      refine refuse (read := readForceSettle) rfl ?_
      unfold readForceSettle
      rw [byte h]
      exact ite_self _
    · cases hc
      exact refuse rfl (readPut_eq_none harg h)
    · simp only [List.mem_cons, List.not_mem_nil, or_false] at hm
      rcases hm with rfl | rfl | rfl <;> cases hc
      · exact refuse (read := readIntercept) rfl (by unfold readIntercept; rw [byte h]; exact ite_self _)
      · exact refuse (read := readReadStatus) rfl (by unfold readReadStatus; rw [byte h]; exact ite_self _)
      · exact refuse (read := readNoticeMask) rfl (by unfold readNoticeMask; rw [byte h]; exact ite_self _)
    · cases hc
      refine refuse (read := readNoticeMask) rfl ?_
      unfold readNoticeMask
      rw [byte h]
      cases yesNo? (args.getD 0 0).toNat <;> simp
    · cases hc
      rw [harg] at h
      exact refuse (read := readReadLog) rfl (by unfold readReadLog; rw [dif_neg (by omega)]; exact ite_self _)
    · cases hc
      rw [harg] at h h'
      refine refuse (read := readClearLog) rfl ?_
      unfold readClearLog
      dsimp only
      rw [dif_neg (by omega), if_neg h']
      exact ite_self _

/-! ### Answers -/

/-- Settles O6: an answer is one reply entry, and the last makes the reply complete. -/
theorem controlParcelIsAnsweredEntryByEntry : Obligations.ControlParcelIsAnsweredEntryByEntry := by
  refine ⟨fun s p rest hp hq => ?_, fun s h => ?_, fun s p replies held code st res hp hh hl => ?_⟩
  · show execControlParcelStart s = _
    unfold execControlParcelStart
    rw [hp, hq]
  · show execControlParcelStart s = _
    unfold execControlParcelStart
    split
    · next hp hq => rw [hp, hq] at h; simp at h
    · rfl
  · unfold State.answered State.writeReply State.headParcel
    rw [hp]
    simp only [hh, Option.map_some, Option.getD_some, phaseAfter, List.length_append, List.length_singleton]
    congr 2
    by_cases e : replies.length + 1 = p.entries.length
    · rw [if_neg (by omega), if_pos e]
    · rw [if_pos (by omega), if_neg e]

end Sys2Proof.Machine
end

section
/-! PROOFS. The resets (O3, O4, O60), which commands touch the window and the banks (O43), links and frames at the ports (O7, O8, O9),
the CP output (O10), and the part time (O38). -/

namespace Sys2Proof.Machine

/-! ### The resets -/

theorem rangeReset_getElem (i : Fin 32) : State.reset.ranges[i] = ⟨false, 0, 0xFFFFFFFFFFFFFF, 0, 0, false⟩ := by
  simp [State.reset, RangeRow.reset]

theorem policyReset_rows (op : Operator) :
    PolicyBanks.reset.bankA[op] = ⟨false, 0, 50000, .holder, 72, 30, 14, 10800, 0, 14, false, false⟩ ∧
      PolicyBanks.reset.bankB[op] = ⟨false, 0, 50000, .holder, 72, 30, 14, 10800, 0, 14, false, false⟩ := by
  simp [PolicyBanks.reset, OperatorRow.reset]

/-- Settles O3: every field of the reset state stands there by definition, once the vectors of rows and records are read. -/
theorem hardResetLosesAllState : Obligations.HardResetLosesAllState := by
  intro s
  refine ⟨{ State.reset with freeDraws := s.freeDraws, pending := s.pending }, rfl, rfl, rfl, rfl, rfl, rfl, rfl, fun _ => rfl, rfl, rfl, rfl,
    rfl, rfl, policyReset_rows, rangeReset_getElem, rfl, rfl, fun i => ?_, rfl, rfl, rfl, rfl, rfl⟩
  simp [State.reset, ExceptionLog.reset]

/-- Settles O60: the kept predicates hold of the reset state one by one. -/
theorem resetStateIsSound : Obligations.ResetStateIsSound := by
  refine ⟨?_, fun c o h => (by cases h), fun c slot _ g hg => (by cases hg)⟩
  exact {
    queues := by simp [State.queuesOk, State.reset, IntakeUnit.used, ActionUnit.depth, NoticeUnit.reset]
    counters := by simp [State.countersOk, State.reset, ExceptionLog.reset, NoticeUnit.reset]
    time := by simp [State.timeOk, State.reset]
    policy := PolicyBanks.reset_inRange
    ranges := fun i => by rw [rangeReset_getElem]; decide
    cases := by simp [State.casesOk, State.reset]
    pool := ⟨State.reset_tableOk, by simp [State.reset], by simp [State.reset, State.slotsInUse, Config.poolSlots]⟩
    index := State.reset_indexOk
    control := State.reset_controlOk }

theorem RuleStep.init {s u : State} {c : Instr} {a : Response} (h : RuleStep s c u a) : u.init = s.init := h.path.1.init

/-- Only HARD_RESET ends READY (R166). -/
theorem CommandStep.init {s t : State} {c : Instr} (h : CommandStep s c t) (hc : c ≠ .hardReset) (hi : s.init = .ready) :
    t.init = .ready := by
  cases h with
  | hardReset => exact absurd rfl hc
  | cleared => rfl
  | ruled _ _ rule => rw [State.finish_init, rule.init, hi]
  | linkDown port => cases port <;> exact hi
  | linkUp port => cases port <;> exact hi
  | intakeTaken =>
    obtain ⟨u, rfl, h⟩ := s.takeUpload_cases _
    rcases h with h | ⟨_, _, _, h⟩ <;> rw [h] <;> exact hi
  | disposed =>
    obtain ⟨u, m, h1, h2⟩ := s.disposeHead_steps _
    rw [h2.pathKept.init, State.markHead_init, h1.pathKept.init, hi]
  | @sent source _ => cases source <;> exact hi
  | windowExpired => rw [(PartStep.windowExpires s _ _).pathKept.init, hi]
  | collectionExpired => rw [((CaseStep.collectionExpires s _ _).part.afterReached s).pathKept.init, hi]
  | tailExpired => rw [(CaseStep.tailExpires s _ _).part.pathKept.init, hi]
  | completed flight =>
    obtain ⟨u, h1, h2⟩ := State.completeOperation_steps flight
    rw [h2, State.flipIfPending_init, h1.pathKept.init, hi]
  | actionsSent => rw [s.actionsSent_steps.pathKept.init, hi]
  | refused => simpa using hi
  | _ => exact hi

/-- Settles O4: the cleared part is written out; over every command the initialization state and the clock go one way. -/
theorem initializationEndsAndReadyStays : Obligations.InitializationEndsAndReadyStays := by
  have run (s : State) : exec .initializationEnd s = .next (match s.init with | .initializing => s.cleared | .ready => s) := rfl
  refine ⟨fun s => ⟨fun hi => ⟨s.cleared, ?_, rfl, fun _ => rfl, rangeReset_getElem, rfl, rfl, policyReset_rows⟩, fun hi => ?_⟩,
    fun c s t h hc => ⟨(CommandStep.of_exec h).init hc, fun hk => ?_⟩⟩
  · rw [run, hi]
  · rw [run, hi]
  · rcases (CommandStep.of_exec h).time with e | ⟨-, -, e⟩ | ⟨v, -, e⟩ | ⟨e, -⟩
    · rw [e, hk]
    · rw [e]; exact hk
    · rw [e]
    · exact absurd e hc

/-! ### The window and the banks -/

/-- Only the window's own commands and SOFT_RESET touch the window (R168). -/
theorem RuleStep.window_kept {s u : State} {c : Instr} {a : Response} (h : RuleStep s c u a)
    (hc : c ∉ ([.seek, .get, .put, .patchBegin, .patchEnd, .softReset, .hardReset] : List Instr)) :
    u.control.window = s.control.window := by
  cases h with
  | opened st res accepted free =>
    obtain ⟨-, -, -, -, -, -, -, -, -, -, room⟩ := State.openRefusal_none accepted
    rw [((CaseStep.openAt _ _ room).part.afterReached s).control]
  | cancelled => rw [(PartStep.cancelAt s _).control]
  | reissued => rw [(PartStep.reissueAt s _).control]
  | forced => simp
  | window mine => simp only [List.mem_cons, List.not_mem_nil, or_false] at mine hc; tauto
  | standbyRow | rangeRow | softReset => simp at hc
  | stays | released | flipped | switching | intercepting | intercepted | timeSet | counters | masks | logCleared => rfl

theorem State.finish_window (s : State) (code : Byte) (a : Response) : (s.finish code a).control.window = s.control.window := by
  unfold State.finish State.writeReply
  cases a <;> cases s.control.phase <;> rfl

theorem CommandStep.window_kept {s t : State} {c : Instr} (h : CommandStep s c t)
    (hc : c ∉ ([.seek, .get, .put, .patchBegin, .patchEnd, .softReset, .hardReset] : List Instr)) :
    t.control.window = s.control.window := by
  cases h with
  | hardReset => simp at hc
  | ruled _ _ rule => rw [State.finish_window, rule.window_kept hc]
  | linkDown port => cases port <;> rfl
  | linkUp port => cases port <;> rfl
  | intakeTaken =>
    obtain ⟨u, rfl, h⟩ := s.takeUpload_cases _
    rcases h with h | ⟨_, _, _, h⟩ <;> rw [h]
    rfl
  | disposed =>
    obtain ⟨u, m, h1, h2⟩ := s.disposeHead_steps _
    rw [h2.control, State.markHead_window, h1.control]
  | @sent source _ => cases source <;> rfl
  | windowExpired => rw [(PartStep.windowExpires s _ _).control]
  | collectionExpired => rw [((CaseStep.collectionExpires s _ _).part.afterReached s).control]
  | tailExpired => rw [(CaseStep.tailExpires s _ _).part.control]
  | completed flight =>
    obtain ⟨u, h1, h2⟩ := State.completeOperation_steps flight
    rw [h2, State.flipIfPending_window, h1.control]
  | actionsSent => rw [s.actionsSent_steps.control]
  | refused => simp
  | _ => rfl

theorem State.setStandbyRow_frame (s : State) (op : Operator) (row : OperatorRow) :
    (s.setStandbyRow op row).policy.active = s.policy.active ∧
    (s.setStandbyRow op row).policy.switchPending = s.policy.switchPending ∧
    ∀ o : Operator, (s.setStandbyRow op row).activeRow o = s.activeRow o := by
  unfold State.setStandbyRow State.activeRow PolicyBanks.activeRows
  cases h : s.policy.active <;> simp [h]

theorem RuleStep.put_policy {s u : State} {a : Response} (h : RuleStep s .put u a) :
    u.policy.active = s.policy.active ∧ u.policy.switchPending = s.policy.switchPending ∧
      ∀ o : Operator, u.activeRow o = s.activeRow o := by
  cases h with
  | standbyRow => exact State.setStandbyRow_frame s _ _
  | stays | rangeRow => exact ⟨rfl, rfl, fun _ => rfl⟩
  | window mine => simp at mine

theorem RuleStep.switch_banks {s u : State} {a : Response} (h : RuleStep s .switchPolicy u a) :
    u.policy.bankA = s.policy.bankA ∧ u.policy.bankB = s.policy.bankB := by
  cases h with
  | stays | flipped | switching => exact ⟨rfl, rfl⟩
  | window mine => simp at mine

theorem State.flipIfPending_banks (s : State) :
    s.flipIfPending.policy.bankA = s.policy.bankA ∧ s.flipIfPending.policy.bankB = s.policy.bankB := by
  unfold State.flipIfPending
  split
  · simp [State.flip]
  · exact ⟨rfl, rfl⟩

/-- Settles O43: the step relation names the only commands whose rule touches window or banks. -/
theorem onlyTheirCommandsChangeWindowAndBanks : Obligations.OnlyTheirCommandsChangeWindowAndBanks := by
  intro c s t h
  have step := CommandStep.of_exec h
  refine ⟨step.window_kept, fun hc => exec_policy ?_ h, ?_, ?_⟩
  · cases c <;> simp [Instr.touchesPolicy] at hc ⊢
  · rintro rfl
    cases step with
    | idle => exact ⟨rfl, rfl, fun _ => rfl⟩
    | refused => simp [State.activeRow]
    | ruled _ _ rule =>
      obtain ⟨h1, h2, h3⟩ := rule.put_policy
      simp only [State.activeRow, State.finish_policy] at h3 ⊢
      exact ⟨h1, h2, h3⟩
  · rintro (rfl | rfl)
    · cases step with
      | idle => exact ⟨rfl, rfl⟩
      | refused => simp
      | ruled _ _ rule => rw [State.finish_policy]; exact rule.switch_banks
    · cases step with
      | idle => exact ⟨rfl, rfl⟩
      | refused => simp
      | ruled _ _ rule => rw [State.finish_policy]; cases rule with | stays => exact ⟨rfl, rfl⟩ | window mine => simp at mine
      | completed flight =>
        obtain ⟨u, h1, h2⟩ := State.completeOperation_steps flight
        obtain ⟨ha, hb⟩ := u.flipIfPending_banks
        rw [h2, ha, hb, h1.policy]
        exact ⟨rfl, rfl⟩

/-! ### Part time -/

/-- Settles O38: SET_TIME by the bound on the value it reads back, the second by clock and highest value. -/
theorem partTimeIsSetAndAdvances : Obligations.PartTimeIsSetAndAdvances := by
  have advance (s : State) : exec .partTimeAdvance s = .next (match s.time.clock with
    | .set => if s.time.now < 4294967295 then { s with time := { s.time with now := s.time.now + 1 } } else s
    | .unset => s) := rfl
  refine fun s => ⟨fun v hv htakes => ?_, fun hc hb => ?_, fun h => ?_⟩
  · have read : readSetTime (beBytes 4 v) = some v := by
      unfold readSetTime
      rw [if_pos (length_beBytes 4 v), fieldNat_self hv]
    have run : exec .setTime s = .next (s.execute 15 readSetTime runSetTime) := rfl
    rw [run, htakes.execute_of_read read]
    unfold runSetTime
    refine ⟨fun h => ?_, fun h => ?_⟩
    · rw [if_pos (show v < Config.minSetTime from h)]; rfl
    · rw [if_neg (show ¬ v < Config.minSetTime from Nat.not_lt.mpr h)]; rfl
  · rw [advance, hc]
    simp only []
    rw [if_pos hb, hc]
  · rw [advance]
    rcases h with h | h
    · rw [h]
    · cases hc : s.time.clock with
      | unset => rfl
      | set => simp only []; rw [if_neg (Nat.not_lt.mpr h)]

/-! ### The ports -/

/-- Settles O7: each of the four link changes is its own arm of `exec`. -/
theorem linkChanges : Obligations.LinkChanges := fun _ => ⟨rfl, rfl, rfl, rfl⟩

/-- A counter incremented holds at its limit (R175). -/
theorem bump_eq_min_max (n : Nat) : bump n = min (n + 1) (max n 65535) := by
  have limit : Config.counterMax = 65535 := rfl
  unfold bump
  rw [limit]
  split <;> omega

theorem carriesParcel_iff (f : RxFrame) : carriesParcel f = true ↔ f.checkOk = true ∧ f.payload.length ≤ 9000 := by
  rw [carriesParcel, Bool.and_eq_true, decide_eq_true_eq]
  exact Iff.rfl

/-- A frame that fails its check, is too long, or meets a DOWN link carries no parcel. -/
theorem no_parcel {f : RxFrame} {link : LinkState} (h : f.checkOk = false ∨ 9000 < f.payload.length ∨ link = .down) :
    (decide (link = .up) && carriesParcel f) = false := by
  rw [Bool.and_eq_false_iff, Bool.eq_false_iff, Bool.eq_false_iff, ne_eq, ne_eq, carriesParcel_iff]
  rcases h with h | h | h
  · exact .inr fun k => by rw [h] at k; cases k.1
  · exact .inr fun k => by omega
  · exact .inl (by simp [h])

theorem a_parcel {f : RxFrame} {link : LinkState} (hc : f.checkOk = true) (hl : f.payload.length ≤ 9000) (hu : link = .up) :
    (decide (link = .up) && carriesParcel f) = true := by
  simp [hu, (carriesParcel_iff f).mpr ⟨hc, hl⟩]

/-- Settles O8: the frame's checks, then the buffer's room, then the run of drops. -/
theorem deviceParcelIsBufferedOrDropped : Obligations.DeviceParcelIsBufferedOrDropped := by
  intro s f
  have run : exec (.dpParcelArrival f) s =
    .next (if decide (s.dp.link = .up) && carriesParcel f then s.deviceParcel f.payload else s) := rfl
  refine ⟨fun h => by rw [run, no_parcel h]; rfl, fun hc hl hu => ?_⟩
  rw [run, a_parcel hc hl hu, if_pos rfl]
  unfold State.deviceParcel State.dropParcel
  rw [← bump_eq_min_max]
  refine ⟨fun hi => by rw [hi], fun hi hr => ?_, fun hi hr hd => ?_, fun hi hr hd h9 => ?_⟩
  · rw [hi]
    exact congrArg _ (if_pos hr)
  · rw [hi]
    simp only []
    rw [if_neg (show ¬ s.dp.buffer.length < Config.dpBufferParcels from Nat.not_lt.mpr hr), if_pos hd, hd]
  · rw [hi]
    simp only []
    rw [if_neg (show ¬ s.dp.buffer.length < Config.dpBufferParcels from Nat.not_lt.mpr hr), if_neg (by simp [hd])]
    refine ⟨_, ?_, rfl⟩
    simp only [droppedHeader, if_pos h9]
    rfl

/-! ### The CP output -/

/-- Settles O10: by what the output holds, and for a grant by the first source that waits. -/
theorem outputIsGrantedAndSent : Obligations.OutputIsGrantedAndSent := by
  have grant (s : State) : exec .cpOutputGrant s = .next (if decide (s.cp.link = .up) && s.cp.sending.isNone then
    { s with cp := { s.cp with sending := s.firstSource } } else s) := rfl
  have complete (s : State) : exec .cpSendComplete s = .next (match s.cp.sending with
    | some source => s.sent source
    | none => s) := rfl
  refine ⟨fun s => ⟨fun h => ?_, fun hu hn => ?_⟩, fun s => ⟨fun h => ?_, fun h => ?_, fun h => ?_, fun h => ?_⟩⟩
  · rw [grant, if_neg]
    rcases h with h | h
    · simp [h]
    · simp [Option.isSome_iff_ne_none.mp h]
  · rw [grant, if_pos (by simp [hu, hn])]
    have first : s.firstSource = if s.offersReply then some .reply else if s.notices.parcel ≠ none then some .notice
        else if s.forward ≠ [] then some .forward else none := by
      unfold State.firstSource
      cases s.notices.parcel <;> cases s.forward <;> simp
    rw [first]
  · rw [complete, h]
  all_goals
    rw [complete, h]
    rfl

end Sys2Proof.Machine
end

section
/-! PROOFS. The table window and the commands of the Control Unit that settle nothing: GET, PATCH_BEGIN, PATCH_END and PUT (O42, O44),
INTERCEPT (O46), READ_STATUS (O47), the notice masks and NOTICE_BUILD (O48), the Exception Log (O49) and SOFT_RESET (O50). -/

namespace Sys2Proof.Machine

/-- A command whose arguments read, and whose own rule replies, is answered on the part its rule leaves (R163). -/
theorem State.takes.answers {α : Type} {s u : State} {code : Byte} {args : List Byte} {read : List Byte → Option α} {a : α}
    {run : State → α → State × Response} {status : Status} {result : ReplyResult} (h : s.takes code args)
    (reads : read args = some a) (rule : run s a = (u, .reply status result)) :
    s.execute code read run = u.answered code status result := by
  rw [h.execute_of_read reads, rule]
  rfl

/-! ### GET and patch mode -/

theorem Cursor.eq_of_table_row {a b : Cursor} (ht : a.table = b.table) (hr : a.row = b.row) : a = b := by
  have : some a = some b := by rw [← cursorOf_table_row a, ← cursorOf_table_row b, ht, hr]
  exact Option.some.inj this

theorem Cursor.advance_standby (row : Fin 64) :
    (Cursor.policyStandby row).advance = .policyStandby (if row = 63 then row else row + 1) := by
  unfold Cursor.advance; dsimp only; split <;> rfl

theorem Cursor.advance_active (row : Fin 64) :
    (Cursor.policyActive row).advance = .policyActive (if row = 63 then row else row + 1) := by
  unfold Cursor.advance; dsimp only; split <;> rfl

theorem Cursor.advance_range (row : Fin 32) :
    (Cursor.blockRanges row).advance = .blockRanges (if row = 31 then row else row + 1) := by
  unfold Cursor.advance; dsimp only; split <;> rfl

theorem Cursor.advance_directory (row : Fin 2048) :
    (Cursor.caseDirectory row).advance = .caseDirectory (if row = 2047 then row else row + 1) := by
  unfold Cursor.advance; dsimp only; split <;> rfl

theorem Cursor.advance_table (c : Cursor) : c.advance.table = c.table := by
  cases c <;> unfold Cursor.advance <;> dsimp only <;> split <;> rfl

/-- The last row of the table a cursor stands in (R168). -/
def Cursor.lastRow : Cursor → Nat
  | .policyStandby _ => 63
  | .policyActive _ => 63
  | .blockRanges _ => 31
  | .caseDirectory _ => 2047

/-- A row number moved on by one, up to the last of its table. -/
theorem val_next_row {n : Nat} [NeZero n] (r last : Fin n) (hl : last.val + 1 = n) :
    (if r = last then r else r + 1 : Fin n).val = if r.val = last.val then r.val else r.val + 1 := by
  by_cases h : r = last
  · simp [h]
  · have hv : r.val ≠ last.val := fun k => h (Fin.ext k)
    rw [if_neg h, if_neg hv, Fin.val_add_one_of_lt' (by have := r.isLt; omega)]

theorem Cursor.advance_row (c : Cursor) : c.advance.row = if c.row = c.lastRow then c.row else c.row + 1 := by
  cases c with
  | policyStandby r => rw [advance_standby]; exact val_next_row r 63 rfl
  | policyActive r => rw [advance_active]; exact val_next_row r 63 rfl
  | blockRanges r => rw [advance_range]; exact val_next_row r 31 rfl
  | caseDirectory r => rw [advance_directory]; exact val_next_row r 2047 rfl

theorem State.standbyRow_eq (s : State) (op : Operator) :
    s.standbyRow op = (match s.policy.active with | .a => s.policy.bankB[op] | .b => s.policy.bankA[op]) := by
  unfold State.standbyRow PolicyBanks.standbyRows
  cases s.policy.active <;> rfl

theorem State.activeRow_eq (s : State) (op : Operator) :
    s.activeRow op = (match s.policy.active with | .a => s.policy.bankA[op] | .b => s.policy.bankB[op]) := by
  unfold State.activeRow PolicyBanks.activeRows
  cases s.policy.active <;> rfl

theorem readNone_nil : readNone [] = some () := rfl

/-- Settles O42: GET by the cursor row and its advance, the two patch commands by whether a cursor is saved. -/
theorem getAndPatchMode : Obligations.GetAndPatchMode := by
  have get (s : State) : exec .get s = .next (s.execute 9 readNone runGet) := rfl
  have patchBegin (s : State) : exec .patchBegin s = .next (s.execute 11 readNone runPatchBegin) := rfl
  have patchEnd (s : State) : exec .patchEnd s = .next (s.execute 12 readNone runPatchEnd) := rfl
  rintro s w rfl
  refine ⟨fun takes content next hcontent htable hrow => ?_, fun takes => ⟨fun hs => ?_, fun hs => ?_⟩,
    fun takes => ⟨fun saved hs => ?_, fun hs => ?_⟩⟩
  · have hnext : (if s.patching then s.control.window.cursor else s.control.window.cursor.advance) = next := by
      apply Cursor.eq_of_table_row
      · rw [htable]; split <;> simp [Cursor.advance_table]
      · rw [hrow]
        by_cases hp : s.control.window.saved.isSome = true
        · rw [if_pos (show s.patching = true from hp), if_pos (.inl hp)]
        · rw [if_neg (show ¬ s.patching = true from hp), Cursor.advance_row]
          simp only [hp, Bool.false_eq_true, false_or]
          cases s.control.window.cursor <;> rfl
    rw [get, takes.answers readNone_nil (u := s.setWindow ⟨next, some ⟨content, s.control.window.cursor⟩, s.control.window.saved⟩)]
    · rfl
    · have row : s.rowAt s.control.window.cursor = content := by
        rw [hcontent]
        cases s.control.window.cursor with
        | policyStandby r => exact congrArg _ (s.standbyRow_eq r)
        | policyActive r => exact congrArg _ (s.activeRow_eq r)
        | blockRanges | caseDirectory => rfl
      rw [← row, ← hnext]; rfl
  · rw [patchBegin, takes.answers readNone_nil (if_neg (by simp [State.patching, hs]))]; rfl
  · rw [patchBegin, takes.answers readNone_nil (if_pos hs)]
  · rw [patchEnd, takes.answers readNone_nil
      (u := s.setWindow { s.control.window with cursor := saved, saved := none }) (by unfold runPatchEnd; rw [hs]; rfl)]
    rfl
  · rw [patchEnd, takes.answers readNone_nil (by unfold runPatchEnd; rw [hs]; rfl)]

/-! ### PUT -/

theorem exec_put (s : State) : exec .put s = .next (s.execute 10 readPut runPut) := rfl

theorem State.standbyRow_setStandbyRow (s : State) (op o : Operator) (row : OperatorRow) :
    (s.setStandbyRow op row).standbyRow o = if o = op then row else s.standbyRow o := by
  unfold State.setStandbyRow State.standbyRow PolicyBanks.standbyRows
  have (bank : Vector OperatorRow 64) : (bank.set op row)[o] = if o = op then row else bank[o] := by
    simp [Vector.getElem_set, Fin.ext_iff, eq_comm]
  cases h : s.policy.active <;> simp only [h, this]

/-- A field keeps its value where the one sent is out of range (R144). -/
theorem heldField_within {α : Type} (lo n hi : Nat) (old new : α) :
    heldField (!within lo n hi) old new = if lo ≤ n ∧ n ≤ hi then new else old := by
  unfold heldField within
  by_cases h : lo ≤ n ∧ n ≤ hi
  · simp [h]
  · rw [if_neg h, if_pos (by simpa [-not_and, Decidable.not_and_iff_or_not] using h)]

theorem within_iff {lo n hi : Nat} : within lo n hi = true ↔ lo ≤ n ∧ n ≤ hi := by simp [within]

/-- The 24 leading bits of a mask are ones exactly when the part of it they make is the whole of them (R151). -/
theorem maskLeads_iff (mask : CardId) : maskLeads mask = true ↔ mask &&& 0xFFFFFF00000000 = 0xFFFFFF00000000 := by
  have high : mask.toNat &&& 16777215 <<< 32 = (mask.toNat >>> 32 &&& (2 ^ 24 - 1)) <<< 32 := by
    apply Nat.eq_of_testBit_eq
    intro i
    rw [Nat.testBit_and, Nat.testBit_shiftLeft, Nat.testBit_shiftLeft, Nat.testBit_and, Nat.testBit_shiftRight]
    by_cases h : 32 ≤ i
    · rw [Nat.add_sub_cancel' h]; simp [h]
    · simp [h]
  have small : mask.toNat >>> 32 < 2 ^ 24 := by
    have := mask.isLt
    rw [Nat.shiftRight_eq_div_pow]
    omega
  rw [Nat.and_two_pow_sub_one_eq_mod, Nat.mod_eq_of_lt small] at high
  rw [maskLeads, decide_eq_true_eq, ← BitVec.toNat_inj, BitVec.toNat_and]
  have key : (0xFFFFFF00000000 : CardId).toNat = 16777215 <<< 32 := by decide
  rw [key, high, Nat.shiftLeft_eq, Nat.shiftLeft_eq, Nat.shiftRight_eq_div_pow]
  omega

/-- A row whole when it is held, and all of the values sent when it is not (R151). -/
theorem RangeValues.held_iff (v : RangeValues) : v.held = true ↔
    v.mask &&& 0xFFFFFF00000000 ≠ 0xFFFFFF00000000 ∨ 63 < v.operator ∨ 1 < v.valid := by
  rw [RangeValues.held, Bool.or_eq_true, Bool.or_eq_true, Bool.not_eq_true', ← Bool.not_eq_true, maskLeads_iff,
    decide_eq_true_eq, Bool.not_eq_true', ← Bool.not_eq_true, within_iff, or_assoc]
  simp

/-- Settles O44: the row under the cursor takes what is in range, and the cursor advances. -/
theorem putWritesTheCursorRow : Obligations.PutWritesTheCursorRow := by
  intro s args put takes reads
  refine ⟨?_, ?_, ?_, ?_, ?_⟩
  · rintro (⟨row, hc⟩ | ⟨row, hc⟩) <;>
    · rw [exec_put, takes.answers reads (u := s)]
      unfold runPut State.cursorReply
      rw [hc]
  · rintro ⟨row, hc⟩ hput
    rw [exec_put, takes.answers reads (u := s)]
    cases put with
    | policyStandby v => exact absurd rfl (hput v)
    | _ => unfold runPut State.cursorReply; rw [hc]
  · rintro ⟨row, hc⟩ hput
    rw [exec_put, takes.answers reads (u := s)]
    cases put with
    | blockRanges v => exact absurd rfl (hput v)
    | _ => unfold runPut State.cursorReply; rw [hc]
  · rintro row v hc rfl
    have written := s.standbyRow_setStandbyRow row row ((s.standbyRow row).written v)
    rw [if_pos rfl] at written
    refine ⟨(s.setStandbyRow row ((s.standbyRow row).written v)).advanceCursor, ?_, ?_, fun op h => ?_, fun op => ?_, ?_⟩
    · rw [exec_put, takes.answers reads (u := (s.setStandbyRow row ((s.standbyRow row).written v)).advanceCursor)]
      unfold runPut
      rw [hc]
      show (_, Response.reply (writeStatus v.heldFields.any) _) = (_, Response.reply (if ((s.setStandbyRow row _).standbyRow row).rangeHeld
        then _ else _) _)
      rw [written]
      rfl
    · unfold State.advanceCursor State.setWindow State.setStandbyRow
      cases h : s.policy.active <;> simp only [hc, Cursor.advance_standby]
    · exact (s.standbyRow_setStandbyRow row op _).trans (if_neg h)
    · exact (s.setStandbyRow_frame row _).2.2 op
    · show _ ∧ _
      have written : (s.setStandbyRow row ((s.standbyRow row).written v)).advanceCursor.standbyRow row
        = (s.standbyRow row).written v := written
      rw [written]
      generalize s.standbyRow row = old
      simp only [OperatorRow.written, PolicyValues.heldFields, heldField_within, Nat.zero_le, true_and]
      refine ⟨?_, ?_, ?_⟩
      · unfold heldField
        by_cases h : 100 ≤ v.purseMax ∧ v.purseMax ≤ 500000
        · simp only [h, decide_true, Bool.and_true, Bool.not_true, Bool.false_eq_true, and_self, if_true, if_false]
          omega
        · rw [if_neg h, if_pos (by simpa [-not_and, Decidable.not_and_iff_or_not] using h)]
      · by_cases h : v.gapPolicy ≤ 1
        · obtain h | h : v.gapPolicy = 0 ∨ v.gapPolicy = 1 := by omega
          · simp [h]
          · simp [h]
        · rw [if_neg h, if_neg (by omega), if_neg (by omega)]
      · simp [HeldFields.any, within, and_assoc]
  · rintro row v hc rfl
    have written : (s.ranges.set row (s.ranges[row].written v))[row] = s.ranges[row].written v := by simp
    refine ⟨{ s with ranges := s.ranges.set row (s.ranges[row].written v) }.advanceCursor, ?_, ?_, fun i h => ?_, fun h => ?_,
      fun h1 h2 h3 => ?_⟩
    · rw [exec_put, takes.answers reads
        (u := ({ s with ranges := s.ranges.set row (s.ranges[row].written v) } : State).advanceCursor)]
      unfold runPut
      rw [hc]
      show (_, Response.reply (writeStatus v.held) _) =
        (_, Response.reply (if (s.ranges.set row (s.ranges[row].written v))[row].rangeHeld then _ else _) _)
      rw [written, RangeRow.written]
      cases v.held <;> rfl
    · unfold State.advanceCursor State.setWindow
      simp only [hc, Cursor.advance_range]
    · show (s.ranges.set row _)[i] = s.ranges[i]
      simp [Vector.getElem_set, Fin.ext_iff] at h ⊢
      exact fun k => absurd k.symm h
    · exact written.trans (if_pos (v.held_iff.mpr h))
    · have free : ¬ v.held = true := by
        rw [v.held_iff]
        rintro (k | k | k)
        · exact k h1
        · omega
        · omega
      have row' : (s.ranges.set row (s.ranges[row].written v))[row] =
        ⟨decide (v.valid = 1), v.base, v.mask, Fin.ofNat 64 v.operator, v.reason, false⟩ := written.trans (if_neg free)
      show ((s.ranges.set row _)[row]).valid = _ ∧ ((s.ranges.set row _)[row]).base = _ ∧ ((s.ranges.set row _)[row]).mask = _ ∧
        ((s.ranges.set row _)[row]).operator.val = _ ∧ ((s.ranges.set row _)[row]).reason = _ ∧
        ((s.ranges.set row _)[row]).rangeHeld = _
      rw [row']
      exact ⟨rfl, rfl, rfl, Nat.mod_eq_of_lt (by omega), rfl, rfl⟩

/-! ### INTERCEPT -/

/-- A yes/no value as the command carries it (R191). -/
theorem yesNo?_bit (b : Bool) : yesNo? (if b then 1 else 0 : Byte).toNat = some b := by cases b <;> rfl

theorem State.takes.executing {s : State} {code : Byte} {args : List Byte} (h : s.takes code args) :
    ∃ replies, s.control.phase = .executing replies none := by
  obtain ⟨-, entry, next, -⟩ := h
  obtain ⟨replies, p, hp, -⟩ := State.nextEntry_some next
  exact ⟨replies, hp⟩

/-- A command that holds the Control Unit leaves it held, with no reply entry written (R163). -/
theorem State.finish_hold {s : State} {replies : List ReplyEntry} {held : Option HeldCommand} (code : Byte)
    (command : HeldCommand) (h : s.control.phase = .executing replies held) :
    s.finish code (.hold command) = { s with control := { s.control with phase := .executing replies (some command) } } := by
  unfold State.finish
  simp only [h]

/-- Settles O46: by whether the head parcel is IN_DISPOSITION under another effective value. -/
theorem interceptChangesAtParcelBoundaries : Obligations.InterceptChangesAtParcelBoundaries := by
  have run (s : State) : exec .intercept s = .next (s.execute 14 readIntercept runIntercept) := rfl
  intro s value replies takes phase
  have reads : readIntercept [if value then 1 else 0] = some value := by cases value <;> rfl
  refine ⟨fun hv hc => ?_, fun h => ?_⟩
  · rw [run, takes.answers reads (if_pos ⟨hv, hc⟩)]
  · have clocked : ¬ (value = true ∧ s.time.clock = .unset) := by
      rintro ⟨hv, hc⟩
      rcases h with h | h <;> simp_all
    refine ⟨fun hb => ?_, fun p rest hq hd he => ?_⟩
    · have now : ¬ (s.inDisposition = true ∧ s.intake.effective ≠ value) := by
        rintro ⟨hd, he⟩
        cases hq : s.intake.queue with
        | nil => simp [State.inDisposition, hq] at hd
        | cons p rest => exact he (hb p rest hq (by rwa [State.inDisposition_cons hq, decide_eq_true_eq] at hd))
      rw [run, takes.answers reads (u := { s with intake := { s.intake with requested := value, effective := value } })]
      unfold runIntercept
      rw [if_neg clocked, if_neg now]
    · have waits : s.inDisposition = true ∧ s.intake.effective ≠ value :=
        ⟨by rw [State.inDisposition_cons hq, hd]; rfl, he⟩
      rw [run, takes.execute_of_read reads]
      unfold runIntercept
      rw [if_neg clocked, if_pos waits]
      exact congrArg _ (State.finish_hold (s := { s with intake := { s.intake with requested := value } }) 14 .intercept phase)

/-! ### READ_STATUS -/

/-- The records of a kind that the hard-reset record is not of are the listed ones of that kind (R1). -/
theorem State.tableOk.count_listed {s : State} (table : s.tableOk) {p : CaseRecord → Bool} (hp : p CaseRecord.reset = false) :
    (s.cases.filter (fun e => p e.2)).length = ((List.range 2048).filter (fun c => p (s.caseAt c))).length := by
  obtain ⟨⟨rising, -⟩, inRange, -⟩ := table
  have distinct : ((s.cases.filter (fun e => p e.2)).map Prod.fst).Nodup :=
    (List.pairwise_map.mpr ((rising.filter _).imp fun h => Nat.ne_of_lt h))
  have same : ((s.cases.filter (fun e => p e.2)).map Prod.fst).Perm ((List.range 2048).filter (fun c => p (s.caseAt c))) := by
    rw [List.perm_ext_iff_of_nodup distinct (List.nodup_range.filter _)]
    intro c
    simp only [List.mem_map, List.mem_filter, List.mem_range, Prod.exists, exists_and_right, exists_eq_right]
    constructor
    · rintro ⟨r, hm, hr⟩
      have at_c : s.caseAt c = r := tableGet_of_mem rising hm
      exact ⟨inRange _ hm, at_c ▸ hr⟩
    · rintro ⟨-, hr⟩
      rcases tableGet_mem_or CaseRecord.reset s.cases c with hm | hd
      · exact ⟨_, hm, hr⟩
      · have reset : s.caseAt c = CaseRecord.reset := hd
        rw [reset, hp] at hr
        cases hr
  rw [← same.length_eq, List.length_map]

/-- The case counts are those of the 2,048 records (R174). -/
theorem State.tableOk.countIn {s : State} (table : s.tableOk) (st : CaseState) :
    s.countIn st = ((List.range 2048).filter (fun c => (s.caseAt c).state == st)).length := by
  have listed {x : CaseState} (hx : x ≠ .free) :
      s.listedIn x = ((List.range 2048).filter (fun c => (s.caseAt c).state == x)).length :=
    table.count_listed (p := fun r => r.state == x) (by
      rw [beq_eq_false_iff_ne]; exact fun h => hx h.symm)
  cases st with
  | free =>
    have rest := table.count_listed (p := fun r => !(r.state == .free)) rfl
    have whole := List.length_eq_length_filter_add (l := List.range 2048) (fun c => (s.caseAt c).state == .free)
    rw [List.length_range] at whole
    have count : s.countIn .free = 2048 - (s.cases.filter (fun e => !(e.2.state == .free))).length := by
      simp only [State.countIn, Config.caseCount, ne_eq, decide_not]; rfl
    omega
  | _ => exact listed (by decide)

/-- Settles O47: the report is read off the state; the case counts are those of a table of 2,048 records. -/
theorem statusIsReportedAsItStands : Obligations.StatusIsReportedAsItStands := by
  have run (s : State) : exec .readStatus s = .next (s.execute 16 readReadStatus runReadStatus) := rfl
  intro s entry clear table next code args
  have reads : readReadStatus (entryArgs entry) = some clear := by rw [args]; cases clear <;> rfl
  have answered : s.execute 16 readReadStatus runReadStatus =
      (if clear then s.clearCounters else s).answered 16 .ok (.status s.statusReport) := by
    unfold State.execute
    simp only [next, if_pos code, reads]
    rw [if_neg (show ¬ (s.init = .initializing ∧ (16 : Byte) ≠ readStatusCode) from fun h => h.2 rfl)]
    rfl
  refine ⟨_, s.statusReport, by rw [run, answered], fun h => by rw [h]; rfl, fun h => by rw [h]; rfl, rfl, rfl, rfl, rfl, rfl,
    rfl, rfl, rfl, rfl, rfl, rfl, rfl, rfl, rfl, rfl, rfl, rfl, rfl, rfl, fun hi => ?_, fun hi => ?_⟩
  · unfold State.statusReport
    simp only [hi, decide_true, if_true]
    exact ⟨trivial, rfl, List.map_congr_left fun st _ => table.countIn st⟩
  · unfold State.statusReport
    simp [hi, allStates]

/-! ### Notices -/

/-- Going round the log, every index but the present one is one step nearer from the next (R180). -/
theorem sub_succ_index {i j : Fin 32} (h : j ≠ i) : (j - i).val = (j - (i + 1)).val + 1 := by
  have hv : j.val ≠ i.val := fun k => h (Fin.ext k)
  simp only [Fin.sub_def, Fin.add_def]
  omega

theorem ExceptionLog.firstValidFrom_spec (l : ExceptionLog) (n : Nat) (i : Fin 32) :
    (l.firstValidFrom n i = none → ∀ j : Fin 32, (j - i).val < n → l.records[j] = none) ∧
    ∀ k, l.firstValidFrom n i = some k → l.records[k].isSome = true ∧
      ∀ j : Fin 32, (j - i).val < (k - i).val → l.records[j] = none := by
  induction n generalizing i with
  | zero => exact ⟨fun _ j h => (by omega), fun k h => (by cases h)⟩
  | succ n ih =>
    obtain ⟨none_, some_⟩ := ih (i + 1)
    unfold ExceptionLog.firstValidFrom
    by_cases hi : l.records[i].isSome = true
    · rw [if_pos hi]
      refine ⟨fun h => (by cases h), fun k h => ?_⟩
      obtain rfl := Option.some.inj h
      exact ⟨hi, fun j hj => by simp at hj⟩
    · rw [if_neg hi]
      have here : l.records[i] = none := by simpa using hi
      refine ⟨fun h j hj => ?_, fun k h => ⟨(some_ k h).1, fun j hj => ?_⟩⟩
      · by_cases e : j = i
        · rw [e, here]
        · exact none_ h j (by have := sub_succ_index e; omega)
      · by_cases e : j = i
        · rw [e, here]
        · have other : k ≠ i := fun e => by
            have := (some_ k h).1
            rw [e, here] at this
            cases this
          exact (some_ k h).2 j (by have := sub_succ_index e; have := sub_succ_index other; omega)

/-- The first valid index from the write index on, counted round (R180, R184). -/
theorem ExceptionLog.firstValid_spec (l : ExceptionLog) :
    (l.firstValid = none ↔ ∀ i : Fin 32, l.records[i] = none) ∧
    ∀ i, l.firstValid = some i → l.records[i].isSome = true ∧
      ∀ j : Fin 32, (j - l.writeIndex).val < (i - l.writeIndex).val → l.records[j] = none := by
  obtain ⟨none_, some_⟩ := l.firstValidFrom_spec 32 l.writeIndex
  refine ⟨⟨fun h i => none_ h i (i - l.writeIndex).isLt, fun h => ?_⟩, some_⟩
  cases hf : l.firstValid with
  | none => rfl
  | some k =>
    have := (some_ k hf).1
    rw [h k] at this
    cases this

/-- Settles O48: by what the Notice Unit may put in a parcel, and the summary by the search for the first valid record. -/
theorem noticesAreMaskedAndBuilt : Obligations.NoticesAreMaskedAndBuilt := by
  have mask (s : State) : exec .setNoticeMask s = .next (s.execute 17 readNoticeMask runSetNoticeMask) := rfl
  have build (s : State) : exec .noticeBuild s = .next (if s.notices.parcel.isNone && (s.notices.wantsSummary || s.notices.wantsEvents)
    then { s with notices := s.notices.build s.log } else s) := rfl
  refine ⟨fun s caseMask logMask takes => ?_, ?_⟩
  · have reads : readNoticeMask [if caseMask then 1 else 0, if logMask then 1 else 0] = some ⟨caseMask, logMask⟩ := by
      cases caseMask <;> cases logMask <;> rfl
    rw [mask, takes.answers reads rfl]
    rfl
  · rintro s logs events rfl rfl
    refine ⟨fun h => ?_, fun hp hw n hn => ?_⟩
    · rw [build, if_neg]
      rw [Bool.and_eq_true, Bool.or_eq_true]
      rintro ⟨hp, hw⟩
      rcases h with h | ⟨hl, he⟩
      · exact h (by simpa using hp)
      · rcases hw with hw | hw
        · exact absurd (hl ▸ hw : false = true) (by decide)
        · exact absurd (he ▸ hw : false = true) (by decide)
    · have builds : (s.notices.parcel.isNone && (s.notices.wantsSummary || s.notices.wantsEvents)) = true := by
        rw [hp, Bool.and_eq_true, Bool.or_eq_true]
        exact ⟨rfl, hw⟩
      have room : s.notices.eventRoom = n := hn.symm
      refine ⟨{ s with notices := s.notices.build s.log }, by rw [build, if_pos builds], ?_, fun hl => ?_, fun hl => ?_⟩
      · rw [← room]; rfl
      · exact congrArg some (if_neg (by rw [show s.notices.wantsSummary = false from hl]; decide))
      · exact ⟨s.log.firstValid, congrArg some (if_pos hl), s.log.firstValid_spec⟩

/-! ### The Exception Log -/

theorem ExceptionLog.isEmpty_iff (l : ExceptionLog) : l.isEmpty = true ↔ ∀ i : Fin 32, l.records[i] = none := by
  simp only [ExceptionLog.isEmpty, List.all_eq_true, Vector.mem_toList_iff, Vector.mem_iff_getElem, Option.isNone_iff_eq_none]
  exact ⟨fun h i => h _ ⟨i, i.isLt, rfl⟩, fun h x ⟨i, hi, hx⟩ => hx ▸ h ⟨i, hi⟩⟩

theorem ExceptionLog.isEmpty_eq_decide (l : ExceptionLog) : l.isEmpty = decide (∀ i : Fin 32, l.records[i] = none) := by
  rw [Bool.eq_iff_iff, isEmpty_iff, decide_eq_true_eq]

theorem ExceptionLog.getElem_set (l : ExceptionLog) (i j : Fin 32) (x : Option LogRecord) :
    (l.records.set i x)[j] = if j = i then x else l.records[j] := by
  simp [Vector.getElem_set, Fin.ext_iff, eq_comm]

theorem State.logRecord_eq {s : State} {r : LogRecord} {after : ExceptionLog} {b : Bool} (written : s.log.write r = after)
    (arises : s.log.arises after = b) :
    s.logRecord r = { s with log := after, notices := { s.notices with logPending := s.notices.logPending || b } } := by
  subst written arises
  rfl

/-- Settles O49: writing by overflow and the record at the write index, clearing by what the log is left with. -/
theorem exceptionLogIsWrittenReadAndCleared : Obligations.ExceptionLogIsWrittenReadAndCleared := by
  have read (s : State) : exec .readLog s = .next (s.execute 18 readReadLog runReadLog) := rfl
  have clear (s : State) : exec .clearLog s = .next (s.execute 19 readClearLog runClearLog) := rfl
  refine ⟨fun s r => ⟨fun ho hn => ?_, fun ho hn => ?_, fun ho => ?_⟩, fun s start takes => ?_, fun s i takes => ?_,
    fun s takes => ?_⟩
  · have written : s.log.write r =
        { s.log with records := s.log.records.set s.log.writeIndex (some r), writeIndex := s.log.writeIndex + 1 } := by
      unfold ExceptionLog.write
      simp only [ho, hn, Bool.false_eq_true, if_false]
    have holds : (s.log.write r).isEmpty = false := by
      rw [Bool.eq_false_iff, ne_eq, ExceptionLog.isEmpty_iff, written]
      intro h
      have := h s.log.writeIndex
      rw [ExceptionLog.getElem_set, if_pos rfl] at this
      cases this
    have arises : s.log.arises (s.log.write r) = decide (∀ i : Fin 32, s.log.records[i] = none) := by
      rw [ExceptionLog.arises, holds, written, s.log.isEmpty_eq_decide]
      simp [ho]
    exact State.logRecord_eq written (written ▸ arises)
  · have written : s.log.write r = { s.log with overflow := true, lost := bump s.log.lost } := by
      unfold ExceptionLog.write
      obtain ⟨x, hx⟩ := Option.ne_none_iff_exists'.mp hn
      simp only [ho, hx, Bool.false_eq_true, if_false]
    have arises : s.log.arises (s.log.write r) = true := by
      rw [ExceptionLog.arises, written]
      simp [ho]
    rw [State.logRecord_eq written (written ▸ arises), Bool.or_true]
  · have written : s.log.write r = { s.log with lost := bump s.log.lost } := by
      unfold ExceptionLog.write
      rw [if_pos ho]
    have arises : s.log.arises (s.log.write r) = false := by
      rw [ExceptionLog.arises, written]
      simp [ExceptionLog.isEmpty, ho]
    rw [State.logRecord_eq written (written ▸ arises), Bool.or_false]
  · have small : (BitVec.ofNat 8 start.val).toNat = start.val := by
      rw [BitVec.toNat_ofNat, Nat.mod_eq_of_lt (by have := start.isLt; omega)]
    have reads : readReadLog [BitVec.ofNat 8 start.val] = some start := by
      simp [readReadLog, small]
    rw [read, takes.answers reads rfl]
    simp only [ExceptionLog.window, List.map_cons, List.map_nil, add_assoc, add_zero]
    rfl
  · have small : (BitVec.ofNat 8 i.val).toNat = i.val := by
      rw [BitVec.toNat_ofNat, Nat.mod_eq_of_lt (by have := i.isLt; omega)]
    have reads : readClearLog [BitVec.ofNat 8 i.val] = some (.record i) := by
      simp [readClearLog, small]
    refine ⟨_, by rw [clear, takes.answers reads rfl], rfl, ?_⟩
    have left : (s.log.clear (.record i)).isEmpty = decide (∀ j : Fin 32, j ≠ i → s.log.records[j] = none) := by
      rw [ExceptionLog.isEmpty_eq_decide, decide_eq_decide]
      refine forall_congr' fun j => ?_
      rw [show (s.log.clear (.record i)).records[j] = if j = i then none else s.log.records[j] from s.log.getElem_set i j none]
      by_cases h : j = i <;> simp [h]
    rw [← left]
    rfl
  · refine ⟨_, by rw [clear, takes.answers (a := .overflow) rfl rfl], rfl, ?_⟩
    have left : (s.log.clear .overflow).isEmpty = decide (∀ j : Fin 32, s.log.records[j] = none) := s.log.isEmpty_eq_decide
    rw [← left]
    have spent : (!((s.log.clear .overflow).isEmpty && !(s.log.clear .overflow).overflow)) = !(s.log.clear .overflow).isEmpty := by
      rw [show (s.log.clear .overflow).overflow = false from rfl]; simp
    rw [← spent]

/-! ### SOFT_RESET -/

/-- Settles O50: by whether a notice parcel is held and not being sent. -/
theorem softResetKeepsTheWork : Obligations.SoftResetKeepsTheWork := by
  have run (s : State) : exec .softReset s = .next (s.execute 20 readNone runSoftReset) := rfl
  intro s takes
  refine ⟨s.softReset, ?_, ?_⟩
  · rw [run, takes.answers readNone_nil rfl]
  · unfold State.softReset State.withdrawNotice
    by_cases h : s.notices.parcel.isSome = true ∧ s.cp.sending ≠ some .notice
    · rw [if_pos (by simpa using h)]
      refine ⟨rfl, fun i => ?_, rfl, rfl, rfl, fun hk => ?_, fun _ _ => ⟨rfl, rfl, rfl⟩⟩
      · simp [ExceptionLog.reset]
      · rcases hk with hk | hk
        · exact absurd hk h.2
        · rw [hk] at h; cases h.1
    · rw [if_neg (by simpa using h)]
      refine ⟨rfl, fun i => ?_, rfl, rfl, rfl, fun _ => ⟨rfl, rfl, rfl⟩, fun h1 h2 => ?_⟩
      · simp [ExceptionLog.reset]
      · exact absurd ⟨Option.isSome_iff_ne_none.mpr h2, h1⟩ h

end Sys2Proof.Machine
end

section
/-! PROOFS. What arrives at the Clearing Port and the header checks (O9), the Intake Unit and the fields of a usage record (O11), and the
conditions of the head parcel (O12). -/

namespace Sys2Proof.Machine

/-! ### The header checks -/

/-- The two bytes of the parcel length (R187). -/
theorem fieldNat_two {bs : List Byte} {i : Nat} (h : i + 2 ≤ bs.length) :
    fieldNat bs i 2 = (bs.getD i 0).toNat * 256 + (bs.getD (i + 1) 0).toNat := by
  rw [fieldNat_eq_foldl bs i 2 h]
  simp [List.range_succ]

theorem fieldNat_three {bs : List Byte} {i : Nat} (h : i + 3 ≤ bs.length) : fieldNat bs i 3 =
    ((bs.getD i 0).toNat * 256 + (bs.getD (i + 1) 0).toNat) * 256 + (bs.getD (i + 2) 0).toNat := by
  rw [fieldNat_eq_foldl bs i 3 h]
  simp [List.range_succ]

/-- A field kept in a word of its own width keeps its number. -/
theorem toNat_ofNat_fieldNat (bs : List Byte) (i w : Nat) : (BitVec.ofNat (8 * w) (fieldNat bs i w)).toNat = fieldNat bs i w := by
  rw [BitVec.toNat_ofNat, Nat.pow_mul]
  exact Nat.mod_eq_of_lt (fieldNat_lt bs i w)

theorem length_parcelBytes {payload : List Byte} (h : 2 + fieldNat payload 0 2 ≤ payload.length) :
    (parcelBytes payload).length = fieldNat payload 0 2 := by
  simp only [parcelBytes, List.length_take, List.length_drop]
  omega

theorem getD_parcelBytes {payload : List Byte} {i : Nat} (h : i < fieldNat payload 0 2) :
    (parcelBytes payload).getD i 0 = payload.getD (2 + i) 0 := by
  unfold parcelBytes
  rw [List.getD_eq_getElem?_getD, List.getD_eq_getElem?_getD, List.getElem?_take_of_lt h, List.getElem?_drop]

theorem parcelKind?_eq (b : Byte) : parcelKind? b =
    if b.toNat = 0 then none else ([.upload, .action, .control, .reply, .notice] : List ParcelKind)[b.toNat - 1]? := by
  unfold parcelKind?
  rcases b.toNat with _ | _ | _ | _ | _ | _ | n
  all_goals rfl

theorem parcelKind?_eq_none {b : Byte} (h : b.toNat = 0 ∨ 5 < b.toNat) : parcelKind? b = none := by
  rw [parcelKind?_eq]
  split
  · rfl
  · rw [List.getElem?_eq_none (by simp; omega)]

/-- A payload without a whole header, or whose parcel length lies outside it (R34). -/
theorem checkParcel_length {payload : List Byte}
    (h : payload.length < 10 ∨ fieldNat payload 0 2 < 8 ∨ payload.length < 2 + fieldNat payload 0 2) :
    checkParcel payload = .error .length := by
  unfold checkParcel
  exact if_pos (by omega)

/-- The header's length is right: a whole header, and a parcel length within the payload (R34). -/
def lengthFits (payload : List Byte) : Prop :=
  10 ≤ payload.length ∧ 8 ≤ fieldNat payload 0 2 ∧ 2 + fieldNat payload 0 2 ≤ payload.length

theorem lengthFits.getD {payload : List Byte} (h : lengthFits payload) {i : Nat} (hi : i < 8) :
    (parcelBytes payload).getD i 0 = payload.getD (2 + i) 0 :=
  getD_parcelBytes (Nat.lt_of_lt_of_le hi h.2.1)

section Checks
variable {payload : List Byte} (fits : lengthFits payload)
include fits

theorem checkParcel_kind (h : parcelKind? (payload.getD 2 0) = none) : checkParcel payload = .error .kind := by
  unfold checkParcel
  dsimp only
  rw [if_neg (by unfold lengthFits at fits; omega), fits.getD (by omega), h]

variable {kind : ParcelKind} (hk : parcelKind? (payload.getD 2 0) = some kind)
include hk

theorem checkParcel_version (h : payload.getD 3 0 ≠ 1) : checkParcel payload = .error .version := by
  unfold checkParcel
  dsimp only
  rw [if_neg (by unfold lengthFits at fits; omega), fits.getD (by omega), hk, fits.getD (by omega)]
  exact if_pos h

theorem checkParcel_countRange (hv : payload.getD 3 0 = 1)
    (h : (payload.getD 9 0).toNat = 0 ∨ kind.maxCount < (payload.getD 9 0).toNat) : checkParcel payload = .error .countRange := by
  unfold checkParcel
  dsimp only
  rw [if_neg (by unfold lengthFits at fits; omega), fits.getD (by omega), hk, fits.getD (by omega), fits.getD (by omega)]
  dsimp only
  rw [if_neg (not_not_intro hv), if_pos h]

/-- Past the first four checks the entries alone decide (R34). -/
theorem checkParcel_entries (hv : payload.getD 3 0 = 1)
    (h : ¬ ((payload.getD 9 0).toNat = 0 ∨ kind.maxCount < (payload.getD 9 0).toNat)) {found : Option (List (List Byte))}
    (hf : found = if kind = .upload then splitRecords (payload.getD 9 0).toNat ((parcelBytes payload).drop 8)
      else walkEntries (payload.getD 9 0).toNat ((parcelBytes payload).drop 8)) :
    (found = none → checkParcel payload = .error .countAgreement) ∧
    ∀ entries, found = some entries → checkParcel payload = .ok ⟨⟨kind, BitVec.ofNat 24 (fieldNat (parcelBytes payload) 2 3),
      BitVec.ofNat 16 (fieldNat (parcelBytes payload) 5 2), payload.getD 9 0⟩, entries⟩ := by
  unfold checkParcel
  dsimp only
  rw [if_neg (by unfold lengthFits at fits; omega), fits.getD (by omega), hk, fits.getD (by omega), fits.getD (by omega)]
  dsimp only
  rw [if_neg (not_not_intro hv), if_neg h, ← hf]
  exact ⟨fun e => by rw [e], fun entries e => by rw [e]⟩

end Checks

/-- The entries a parcel's bytes hold, as they are found (R34, R188). -/
theorem entries_eq_some {kind : ParcelKind} {n : Nat} {body : List Byte} {entries : List (List Byte)} :
    (if kind = .upload then splitRecords n body else walkEntries n body) = some entries ↔
      entries.length = n ∧ entries.flatten = body ∧
        ∀ e ∈ entries, if kind = .upload then e.length = 48 else 4 ≤ e.length ∧ fieldNat e 0 2 = e.length := by
  split
  · rw [splitRecords_eq_some]
  · rw [walkEntries_eq_some]

/-- Settles O9: what a frame does by its checks, and each header check where those before it hold. -/
theorem clearingParcelIsQueuedOrLogged : Obligations.ClearingParcelIsQueuedOrLogged := by
  refine ⟨fun s f => ?_, fun payload b length hb hlength => ?_⟩
  · have run : exec (.cpParcelArrival f) s =
      .next (if decide (s.cp.link = .up) && carriesParcel f then s.clearingParcel f.payload else s) := rfl
    refine ⟨fun h => by rw [run, no_parcel h]; rfl, fun hc hl hu => ⟨fun check hp => ?_, fun p hp => ⟨fun hk => ?_, fun hk hr => ?_,
      fun hk hr => ?_⟩⟩⟩
    all_goals
      rw [run, a_parcel hc hl hu, if_pos rfl, State.clearingParcel, hp]
    all_goals dsimp only
    · split
      · next e => exact absurd e hk
      · rfl
    · rw [hk]
      exact congrArg _ (if_pos hr)
    · rw [hk, ← bump_eq_min_max]
      exact congrArg _ (if_neg (Nat.not_lt.mpr hr))
  · have len (h : 10 ≤ payload.length) : fieldNat payload 0 2 = length := by rw [fieldNat_two (by omega), hlength, hb, hb]
    refine ⟨fun h => ?_, fun h10 h8 hin => ?_⟩
    · by_cases h10 : payload.length < 10
      · exact checkParcel_length (.inl h10)
      · exact checkParcel_length (by rw [len (by omega)]; exact h)
    · have fits : lengthFits payload := ⟨h10, by rw [len h10]; exact h8, by rw [len h10]; exact hin⟩
      refine ⟨fun h => checkParcel_kind fits (parcelKind?_eq_none (by rwa [← hb])), fun kind h1 hk => ?_⟩
      have kinded : parcelKind? (payload.getD 2 0) = some kind := by rw [parcelKind?_eq, ← hb, if_neg (by omega), hk]
      refine ⟨fun h => checkParcel_version fits kinded fun e => h (by rw [hb, e]; rfl), ?_⟩
      intro h3 most hmost
      obtain rfl : most = kind.maxCount := hmost.trans (by cases kind <;> rfl)
      have version : payload.getD 3 0 = 1 := BitVec.eq_of_toNat_eq ((hb 3).symm.trans h3)
      refine ⟨fun h => checkParcel_countRange fits kinded version (by rwa [← hb]), fun h9 hmost agrees hagrees => ?_⟩
      have body : (parcelBytes payload).drop 8 = (payload.drop 10).take (length - 8) := by
        rw [parcelBytes, len h10, List.drop_take, List.drop_drop]
      obtain ⟨refused, taken⟩ := checkParcel_entries fits kinded version (by rw [← hb]; omega) rfl
      have found (entries : List (List Byte)) : (if kind = .upload then splitRecords (payload.getD 9 0).toNat
          ((parcelBytes payload).drop 8) else walkEntries (payload.getD 9 0).toNat ((parcelBytes payload).drop 8)) = some entries ↔
          agrees entries := by
        rw [hagrees, hb, ← body]
        exact entries_eq_some
      refine ⟨fun h => refused ?_, fun entries h => ⟨_, taken entries ((found entries).mpr h), rfl, ?_, ?_, (hb 9).symm⟩⟩
      · rw [Option.eq_none_iff_forall_ne_some]
        exact fun entries e => h entries ((found entries).mp e)
      · have size := length_parcelBytes fits.2.2
        exact (toNat_ofNat_fieldNat _ 2 3).trans (by
          rw [fieldNat_three (by omega), fits.getD (by omega), fits.getD (by omega), fits.getD (by omega), hb, hb, hb])
      · have size := length_parcelBytes fits.2.2
        exact (toNat_ofNat_fieldNat _ 5 2).trans (by
          rw [fieldNat_two (by omega), fits.getD (by omega), fits.getD (by omega), hb, hb])

/-! ### The Intake Unit -/

theorem positionOf_append {α : Type} {test : α → Bool} {before after : List α} {a : α} (hb : ∀ x ∈ before, test x = false)
    (ha : test a = true) : positionOf test (before ++ a :: after) = some before.length := by
  induction before with
  | nil => simp [positionOf, ha]
  | cons b before ih =>
    rw [List.cons_append, positionOf, if_neg (by simp [hb b (by simp)]), ih fun x hx => hb x (by simp [hx])]
    rfl

@[simp] theorem intakeRecord_isMalformed (now : Nat) (raw : List Byte) :
    (intakeRecord now raw).isMalformed = (usageRecord raw).malformed := by
  unfold intakeRecord IntakeRecord.isMalformed
  cases (usageRecord raw).malformed <;> rfl

theorem filter_intakeRecord (now : Nat) (entries : List (List Byte)) :
    ((entries.map (intakeRecord now)).filter IntakeRecord.isMalformed).length =
      (entries.filter (fun x => (usageRecord x).malformed)).length := by
  rw [List.filter_map, List.length_map]
  congr 2
  funext x
  exact intakeRecord_isMalformed now x

/-- A parcel with no record that fails a check of R39 is taken without a log record. -/
theorem State.logMalformed_none (s : State) (h : Header) {entries : List (List Byte)}
    (fine : ∀ raw ∈ entries, (usageRecord raw).malformed = false) :
    s.logMalformed h (entries.map (intakeRecord s.time.now)) = s := by
  have nothing : (entries.map (intakeRecord s.time.now)).find? IntakeRecord.isMalformed = none := by
    rw [List.find?_eq_none]
    simp only [List.mem_map, forall_exists_index, and_imp, forall_apply_eq_imp_iff₂, intakeRecord_isMalformed]
    exact fun raw hr => by simp [fine raw hr]
  unfold State.logMalformed
  rw [nothing]

/-- A parcel whose first failing record stands at a position is logged once, with their number (R40). -/
theorem State.logMalformed_some (s : State) (now : Nat) (h : Header) {before after : List (List Byte)} {raw : List Byte}
    (fine : ∀ x ∈ before, (usageRecord x).malformed = false) (bad : (usageRecord raw).malformed = true) :
    s.logMalformed h ((before ++ raw :: after).map (intakeRecord now)) =
      s.logException none (if (usageRecord raw).card = 0 then none else some (usageRecord raw).card) (some (usageRecord raw).device)
        (.recordsMalformed h.source h.seq (1 + (after.filter (fun x => (usageRecord x).malformed)).length) before.length) := by
  have clean : ∀ x ∈ before.map (intakeRecord now), x.isMalformed = false := by
    simp only [List.mem_map, forall_exists_index, and_imp, forall_apply_eq_imp_iff₂, intakeRecord_isMalformed]
    exact fine
  have found : ((before ++ raw :: after).map (intakeRecord now)).find? IntakeRecord.isMalformed = some (intakeRecord now raw) := by
    rw [List.map_append, List.find?_append, List.find?_eq_none.mpr fun x hx => by simp [clean x hx], List.map_cons,
      List.find?_cons_of_pos (by rw [intakeRecord_isMalformed, bad])]
    rfl
  have position : positionOf IntakeRecord.isMalformed ((before ++ raw :: after).map (intakeRecord now)) = some before.length := by
    rw [List.map_append, List.map_cons, positionOf_append clean (by rw [intakeRecord_isMalformed, bad]), List.length_map]
  have count : (((before ++ raw :: after).map (intakeRecord now)).filter IntakeRecord.isMalformed).length =
      1 + (after.filter (fun x => (usageRecord x).malformed)).length := by
    rw [filter_intakeRecord, List.filter_append, List.filter_eq_nil_iff.mpr fun x hx => by simp [fine x hx], List.nil_append,
      List.filter_cons_of_pos (p := fun x => (usageRecord x).malformed) bad, List.length_cons, Nat.add_comm]
  unfold State.logMalformed
  rw [found, position]
  dsimp only
  rw [count]
  rfl

/-! ### The fields of a usage record -/

theorem recordKind?_eq_some {b : Byte} {kind : RecordKind} : recordKind? b = some kind ↔
    1 ≤ b.toNat ∧ ([.purseUse, .purseLoad, .passUse, .passSale, .actionApplied] : List RecordKind)[b.toNat - 1]? = some kind := by
  unfold recordKind?
  rcases b.toNat with _ | _ | _ | _ | _ | _ | n <;> simp

theorem recordKind?_eq_none {b : Byte} : recordKind? b = none ↔ b.toNat = 0 ∨ 5 < b.toNat := by
  unfold recordKind?
  rcases b.toNat with _ | _ | _ | _ | _ | _ | n <;> simp

theorem bitOf_zero (b : Byte) : bitOf b 0 = decide (b.toNat % 2 = 1) := by
  unfold bitOf
  rw [← BitVec.testBit_toNat, Nat.testBit_zero]

theorem UsageRecord.slot_eq_none {u : UsageRecord} : u.slot = none ↔ u.slotByte = none ∨ ∃ b, u.slotByte = some b ∧ 3 < b.toNat := by
  unfold UsageRecord.slot
  cases u.slotByte with
  | none => simp
  | some b =>
    by_cases h : b.toNat < 4
    · simp [h]; omega
    · simp [h]; omega

theorem UsageRecord.slot_eq_some {u : UsageRecord} {slot : PassSlot} (h : u.slot = some slot) :
    ∃ b, u.slotByte = some b ∧ slot.val = b.toNat := by
  unfold UsageRecord.slot at h
  split at h
  · cases h
  · next b hb =>
    split at h
    · cases h; exact ⟨b, hb, rfl⟩
    · cases h

/-- The fields a MALFORMED record fails by (R39). -/
theorem UsageRecord.malformed_iff (u : UsageRecord) : u.malformed = true ↔
    u.kind = none ∨ u.card = 0 ∨ u.amount < -1000000 ∨ 1000000 < u.amount ∨ u.balanceAfter < -50000 ∨ 1000000 < u.balanceAfter ∨
      (∃ b, u.slotByte = some b ∧ 3 < b.toNat) ∨
      ((u.kind = some .passUse ∨ u.kind = some .passSale) ∧ (u.slotByte = none ∨ u.passAfter = none)) ∨
      (u.kind = some .actionApplied ∧ (u.ref = none ∨ u.mask = none)) := by
  have slot : (match u.slotByte with | some b => decide (3 < b.toNat) | none => false) = true ↔
      ∃ b, u.slotByte = some b ∧ 3 < b.toNat := by
    cases u.slotByte <;> simp
  have lacks : u.lacksField = true ↔
      ((u.kind = some .passUse ∨ u.kind = some .passSale) ∧ (u.slotByte = none ∨ u.passAfter = none)) ∨
      (u.kind = some .actionApplied ∧ (u.ref = none ∨ u.mask = none)) := by
    unfold UsageRecord.lacksField
    cases u.kind with
    | none => simp
    | some kind => cases kind <;> simp
  rw [← lacks, ← slot]
  unfold UsageRecord.malformed
  simp only [Bool.or_eq_true, decide_eq_true_eq, beq_iff_eq, Option.isNone_iff_eq_none, or_assoc]
  exact Iff.rfl

/-- Settles O11: the three outcomes at the head of the buffer; the log record of a parcel with failing records; the fields of a record. -/
theorem intakeTakesTheHeadParcel : Obligations.IntakeTakesTheHeadParcel := by
  have run {s : State} {payload : List Byte} {rest : List (List Byte)} (h : s.dp.buffer = payload :: rest) :
      exec .intakeTakeParcel s = .next (s.intakeTake payload) := by
    have (s : State) : exec .intakeTakeParcel s = .next (match s.dp.buffer with
      | [] => s
      | payload :: _ => s.intakeTake payload) := rfl
    rw [this, h]
  have taken {s : State} {p : Parcel} {payload : List Byte} (hp : checkParcel payload = .ok p) (hk : p.header.kind = .upload)
      (room : s.intake.used + p.entries.length ≤ 512) : s.intakeTake payload = s.takeUpload p := by
    rw [State.intakeTake, hp]
    dsimp only
    rw [hk]
    exact if_pos (show p.entries.length ≤ 512 - s.intake.used by omega)
  refine ⟨fun s payload rest hb => ⟨fun check hp => ?_, fun p hp => ⟨fun hk => ?_, fun hk room => ?_, fun hk room => ?_⟩⟩,
    fun s payload rest p before after raw hb hp hk room hsplit fine bad => ?_, ?_⟩
  · rw [run hb, State.intakeTake, hp, hb]
    rfl
  · rw [run hb, State.intakeTake, hp, hb]
    dsimp only
    split
    · next e => exact absurd e hk
    · rfl
  · obtain ⟨count, some_, -⟩ := checkParcel_ok hp
    rw [run hb, State.intakeTake, hp]
    dsimp only
    rw [hk]
    exact congrArg _ (if_neg (show ¬ p.entries.length ≤ 512 - s.intake.used by omega))
  · refine ⟨s.takeUpload p, by rw [run hb, taken hp hk room], ?_⟩
    obtain ⟨u, hu, cases⟩ := s.takeUpload_cases p
    have frame : (s.takeUpload p).dp = u.dp ∧ (s.takeUpload p).intake = u.intake ∧
        s.takeUpload p = { u with log := (s.takeUpload p).log, notices := (s.takeUpload p).notices } := by
      rcases cases with e | ⟨k, d, x, e⟩ <;> rw [e] <;> exact ⟨rfl, rfl, rfl⟩
    obtain ⟨hdp, hin, hframe⟩ := frame
    refine ⟨by rw [hdp, hu, hb]; rfl, by rw [hin, hu]; rfl, ?_, fun fine => ?_⟩
    · rw [hdp, hin]
      exact hframe.trans (by rw [hu])
    · have quiet : s.takeUpload p = u := by
        unfold State.takeUpload
        rw [hu]
        exact State.logMalformed_none _ _ fine
      rw [quiet, hu]
      exact ⟨rfl, rfl⟩
  · refine ⟨_, _, by rw [run hb, taken hp hk room], rfl, ?_⟩
    unfold State.takeUpload
    rw [hsplit]
    dsimp only
    rw [State.logMalformed_some _ _ _ fine bad]
    rfl
  · rintro raw b num int has u h48 hb hnum hint hhas rfl
    have field {p n : Nat} (h : p + n ≤ 48) : num p n = fieldNat raw p n := by
      rw [hnum, fieldNat_eq_foldl raw p n (by omega)]
      simp only [hb]
    have intField {p : Nat} (h : p + 4 ≤ 48) : int p = fieldInt raw p := by rw [hint, field h]; rfl
    have bit (i : Nat) : has i = bitOf (raw.getD 19 0) i := by
      rw [hhas, hb, bitOf, BitVec.testBit_toNat]
    have slotByte : (usageRecord raw).slotByte = if has 0 then some (raw.getD 30 0) else none := by rw [bit]; rfl
    have passAfter : (usageRecord raw).passAfter = if has 1 then some (passStateOf raw) else none := by rw [bit]; rfl
    have ref : (usageRecord raw).ref = if has 2 then some (refOf (fieldNat raw 41 4)) else none := by rw [bit]; rfl
    have mask : (usageRecord raw).mask = if has 3 then some ((raw.getD 31 0).setWidth 4) else none := by rw [bit]; rfl
    have kindCode : ∀ kind, (usageRecord raw).kind = some kind ↔
        1 ≤ b 7 ∧ ([.purseUse, .purseLoad, .passUse, .passSale, .actionApplied] : List RecordKind)[b 7 - 1]? = some kind := by
      rw [hb]; exact fun kind => recordKind?_eq_some
    have card : (usageRecord raw).card.toNat = num 0 7 := by rw [field (by omega)]; exact toNat_ofNat_fieldNat raw 0 7
    have count : bitOf (raw.getD 34 0) 0 = decide (b 34 % 2 = 1) := by rw [bitOf_zero, hb]
    refine ⟨⟨card, (field (by omega)).symm, (field (by omega)).symm, ?_, ?_, (intField (by omega)).symm, (intField (by omega)).symm,
      kindCode, ?_, fun slot hs => ?_, ?_, fun pass hp => ?_, ?_, fun r hr => ?_, ?_, fun m hm => ?_⟩, ?_⟩
    · rw [field (by omega)]; exact toNat_ofNat_fieldNat raw 16 3
    · rw [hb]; rfl
    · rw [UsageRecord.slot_eq_none, slotByte, hb]
      cases has 0 <;> simp
    · obtain ⟨x, hx, hv⟩ := UsageRecord.slot_eq_some hs
      rw [slotByte] at hx
      split at hx
      · rw [hv, hb, Option.some.inj hx]
      · cases hx
    · rw [passAfter]; cases has 1 <;> rfl
    · rw [passAfter] at hp
      split at hp
      · obtain rfl := Option.some.inj hp
        refine ⟨(field (by omega)).symm, ?_, (field (by omega)).symm, (field (by omega)).symm, ?_⟩
        · unfold passStateOf
          rw [count]
          by_cases h : b 34 % 2 = 1 <;> simp [h]
        · rw [field (by omega)]
          unfold passStateOf
          rw [count]
          by_cases h : b 34 % 2 = 1 <;> simp [h]
      · cases hp
    · rw [ref]; cases has 2 <;> rfl
    · rw [ref] at hr
      split at hr
      · obtain rfl := Option.some.inj hr
        rw [field (by omega)]
        exact Ref.value_refOf (fieldNat_lt raw 41 4)
      · cases hr
    · rw [mask]; cases has 3 <;> rfl
    · rw [mask] at hm
      split at hm
      · obtain rfl := Option.some.inj hm
        rw [hb, BitVec.toNat_setWidth]
      · cases hm
    · have noKind : (usageRecord raw).kind = none ↔ b 7 = 0 ∨ 5 < b 7 := by rw [hb]; exact recordKind?_eq_none
      have noCard : (usageRecord raw).card = 0 ↔ num 0 7 = 0 := by
        rw [← card, ← BitVec.toNat_inj]; rfl
      have pass : ((usageRecord raw).kind = some .passUse ∨ (usageRecord raw).kind = some .passSale) ↔ b 7 = 3 ∨ b 7 = 4 := by
        rw [kindCode, kindCode]
        rcases b 7 with _ | _ | _ | _ | _ | _ | n <;> simp
      have applied : (usageRecord raw).kind = some .actionApplied ↔ b 7 = 5 := by
        rw [kindCode]
        rcases b 7 with _ | _ | _ | _ | _ | _ | n <;> simp
      rw [UsageRecord.malformed_iff, noKind, noCard, pass, applied, slotByte, passAfter, ref, mask, or_assoc,
        intField (by omega), intField (by omega), hb 30]
      have amount : (usageRecord raw).amount = fieldInt raw 22 := rfl
      have balance : (usageRecord raw).balanceAfter = fieldInt raw 26 := rfl
      rw [amount, balance]
      cases has 0 <;> cases has 1 <;> cases has 2 <;> cases has 3 <;> simp

/-! ### The head parcel of the intake queue -/

theorem IntakeRecord.unmarked_iff {r : IntakeRecord} : r.unmarked = true ↔ r.mark = none := Option.isNone_iff_eq_none

theorem any_unmarked_iff {records : List IntakeRecord} :
    records.any IntakeRecord.unmarked = true ↔ ∃ r ∈ records, r.mark = none := by
  simp only [List.any_eq_true, IntakeRecord.unmarked_iff]

theorem markFirst_append {before after : List IntakeRecord} {r : IntakeRecord} (m : Mark) (hb : ∀ x ∈ before, x.mark ≠ none)
    (hr : r.mark = none) : markFirst (before ++ r :: after) m = before ++ { r with mark := some m } :: after := by
  induction before with
  | nil => exact if_pos (IntakeRecord.unmarked_iff.mpr hr)
  | cons b before ih =>
    rw [List.cons_append, markFirst, if_neg (fun k => hb b (by simp) (IntakeRecord.unmarked_iff.mp k)),
      ih fun x hx => hb x (by simp [hx])]
    rfl

/-- A parcel is IN_DISPOSITION after a mark exactly while one of the records behind is unmarked (R41). -/
theorem IntakeParcel.afterMark_eq {p : IntakeParcel} {before after : List IntakeRecord} {r : IntakeRecord} (m : Mark)
    (hp : p.records = before ++ r :: after) (hb : ∀ x ∈ before, x.mark ≠ none) (hr : r.mark = none) :
    p.afterMark m = { p with
      records := before ++ { r with mark := some m } :: after
      condition := if (∃ x ∈ after, x.mark = none) then .inDisposition else .marked } := by
  have left : (∃ x ∈ before ++ { r with mark := some m } :: after, x.mark = none) ↔ ∃ x ∈ after, x.mark = none := by
    constructor
    · rintro ⟨x, hx, hn⟩
      rw [List.mem_append, List.mem_cons] at hx
      rcases hx with hx | rfl | hx
      · exact absurd hn (hb x hx)
      · cases hn
      · exact ⟨x, hx, hn⟩
    · rintro ⟨x, hx, hn⟩
      exact ⟨x, by simp [hx], hn⟩
  unfold IntakeParcel.afterMark
  rw [hp, markFirst_append m hb hr]
  dsimp only
  congr 1
  exact if_congr (any_unmarked_iff.trans left) rfl rfl

/-- Settles O12: the start, the marks and the forwarding of the head parcel. -/
theorem parcelConditionsOfTheHead : Obligations.ParcelConditionsOfTheHead := by
  have start (s : State) : exec .dispositionStartParcel s = .next (match s.intake.queue with
    | [] => s
    | p :: rest =>
      if p.condition = .waiting then { s with intake := { s.intake with queue := p.started :: rest } } else s) := rfl
  have enter (s : State) : exec .forwardQueueEntry s = .next (match s.intake.queue with
    | [] => s
    | p :: rest =>
      if p.condition = .marked ∧ s.forward.length < 16 then
        { s with intake := { s.intake with queue := rest }, forward := s.forward ++ [p.forwarded] }
      else s) := rfl
  refine ⟨fun s p rest hq => ⟨fun hw => ?_, fun hw => ?_, fun hm hr hall => ?_, fun h => ?_⟩,
    fun s p rest before after r m hq hd hsplit hb hr => ⟨fun hmore => ?_, ?_⟩⟩
  · have started : p.started = { p with condition := if (∃ r ∈ p.records, r.mark = none) then .inDisposition else .marked } := by
      unfold IntakeParcel.started
      congr 1
      exact if_congr any_unmarked_iff rfl rfl
    rw [start, hq]
    dsimp only
    rw [if_pos hw, started]
  · rw [start, hq]
    exact congrArg _ (if_neg hw)
  · refine ⟨p.forwarded, ?_, rfl, List.length_map .., fun i r m hi hm => ?_⟩
    · rw [enter, hq]
      exact congrArg _ (if_pos ⟨hm, hr⟩)
    · show (p.records.map IntakeRecord.forwarded)[i]? = _
      rw [List.getElem?_map, hi]
      simp only [Option.map_some, IntakeRecord.forwarded, hm, withMark]
  · rw [enter, hq]
    refine congrArg _ (if_neg ?_)
    rintro ⟨hm, hr⟩
    rcases h with h | h
    · exact h hm
    · omega
  · have marked := IntakeParcel.afterMark_eq m hsplit hb hr
    rw [if_pos hmore] at marked
    unfold State.marked State.markHead
    rw [hq]
    dsimp only
    rw [marked]
    dsimp only
    rw [if_neg (by decide), hd]
  · intro hnone u hu
    have marked := IntakeParcel.afterMark_eq m hsplit hb hr
    rw [if_neg (fun ⟨x, hx, hn⟩ => hnone x hx hn)] at marked
    have boundary : s.marked m = u.completeHeld .intercept := by
      rw [hu]
      unfold State.marked State.markHead
      rw [hq]
      dsimp only
      rw [marked]
      exact if_pos rfl
    have phase : u.control.phase = s.control.phase := by rw [hu]
    rw [boundary, ← phase]
    refine ⟨fun ⟨replies, held⟩ => ?_, fun free => ?_⟩
    · rcases u.completeHeld_answers .intercept with ⟨-, -, e⟩ | ⟨other, -⟩
      · exact e
      · exact absurd held (other replies)
    · rcases u.completeHeld_answers .intercept with ⟨replies, held, -⟩ | ⟨-, e⟩
      · exact absurd held (free replies)
      · exact e

end Sys2Proof.Machine
end

section
/-! PROOFS. The disposition of one record (R41 to R46): records that touch no case (O13), records of a case that count nothing (O14), and
records that are attached (O15). -/

namespace Sys2Proof.Machine

/-! ### A disposition that sets no deadline -/

/-- Every case has the deadline it had. -/
def SameDeadlines (s t : State) : Prop := ∀ j, (t.caseAt j).deadline = (s.caseAt j).deadline

/-- Where a record frees no room and no case takes another deadline, its disposition is its effect and its mark (R41). -/
theorem State.disposesNext.exec_eq {s t : State} {p : IntakeParcel} {rest : List IntakeParcel} {i : IntakeRecord} {m : Mark}
    (h : s.disposesNext p rest i) (hd : s.dispose i.raw i.stamp = ((t, false), m)) (same : SameDeadlines s t) :
    exec .recordDisposition s = .next (t.marked m) := by
  obtain ⟨hq, hc, hf⟩ := h
  have run (s : State) : exec .recordDisposition s = .next (match s.intake.queue with
    | [] => s
    | p :: _ =>
      if p.condition = .inDisposition then
        match p.records.find? IntakeRecord.unmarked with
        | some r => s.disposeHead r
        | none => s
      else s) := rfl
  have quiet : s.reachedSince (t.markHead m) = none :=
    State.reachedSince_none fun c => .inl (by
      rw [State.caseAt_congr (t.markHead_cases m)]
      exact same c)
  rw [run, hq]
  dsimp only
  rw [if_pos hc, hf]
  dsimp only
  unfold State.disposeHead
  dsimp only
  rw [hd]
  exact congrArg _ (State.afterReached_none quiet)

theorem SameDeadlines.refl (s : State) : SameDeadlines s s := fun _ => rfl

/-! ### By the Card Index -/

section ByIndex
variable {s : State} {raw : List Byte} {stamp : Nat}

theorem State.dispose_off (h : s.intake.effective = false) : s.dispose raw stamp = ((s, false), .unchecked) := if_pos h

variable (on : s.intake.effective = true)
include on

theorem State.dispose_none (h : s.lookup (usageRecord raw).card = none) : s.dispose raw stamp =
    (((s.disposeOther (usageRecord raw) ((usageRecord raw).kind.getD .purseUse)).1, false),
      (s.disposeOther (usageRecord raw) ((usageRecord raw).kind.getD .purseUse)).2) := by
  unfold State.dispose
  rw [if_neg (by simp [on])]
  dsimp only
  rw [h]

theorem State.dispose_new {k : CardId} {c : Nat} (h : s.lookup (usageRecord raw).card = some ⟨k, c, .new⟩) :
    s.dispose raw stamp = s.disposeNew c (usageRecord raw) ((usageRecord raw).kind.getD .purseUse) := by
  unfold State.dispose
  rw [if_neg (by simp [on])]
  dsimp only
  rw [h]

theorem State.dispose_old {k : CardId} {c : Nat} (h : s.lookup (usageRecord raw).card = some ⟨k, c, .old⟩) {t : State} {m : Mark}
    (hd : s.disposeOld c (usageRecord raw) ((usageRecord raw).kind.getD .purseUse)
      (if stamp = 0 then s.time.now else stamp) = (t, m)) : s.dispose raw stamp = ((t, false), m) := by
  unfold State.dispose
  rw [if_neg (by simp [on])]
  dsimp only
  rw [h]
  dsimp only
  rw [show s.disposeOld c (usageRecord raw) _ (effectiveStamp stamp s.time.now) = (t, m) from hd]

end ByIndex

theorem State.rangeBlocked_iff {s : State} {card : CardId} : s.rangeBlocked card = true ↔
    ∃ i : Fin 32, s.ranges[i].valid = true ∧ card &&& s.ranges[i].mask = s.ranges[i].base &&& s.ranges[i].mask := by
  simp only [State.rangeBlocked, List.any_eq_true, Vector.mem_toList_iff, Vector.mem_iff_getElem, RangeRow.matchesCard,
    Bool.and_eq_true, beq_iff_eq]
  constructor
  · rintro ⟨r, ⟨i, hi, rfl⟩, h⟩
    exact ⟨⟨i, hi⟩, h⟩
  · rintro ⟨i, h⟩
    exact ⟨_, ⟨i, i.isLt, rfl⟩, h⟩

theorem getD_ne_actionApplied {k : Option RecordKind} (h : k ≠ some .actionApplied) : k.getD .purseUse ≠ .actionApplied := by
  cases k with
  | none => decide
  | some k => exact fun e => h (congrArg some e)

theorem State.disposeOther_plain {s : State} {u : UsageRecord} {kind : RecordKind} (hr : s.rangeBlocked u.card = false)
    (hk : kind ≠ .actionApplied) : s.disposeOther u kind = (s, .clear) := by
  unfold State.disposeOther
  rw [if_neg (by simp [hr])]
  cases kind with
  | actionApplied => exact absurd rfl hk
  | _ => rfl

/-- Settles O13: by whether a valid range matches, and then by the ref the record carries. -/
theorem recordOfNoCaseOrUnderInterceptOff : Obligations.RecordOfNoCaseOrUnderInterceptOff := by
  refine ⟨fun s p rest r h off => h.exec_eq (State.dispose_off off) (.refl s), ?_⟩
  rintro s p rest r u h on rfl hl
  have other {t : State} {m : Mark} (hd : s.disposeOther (usageRecord r.raw) ((usageRecord r.raw).kind.getD .purseUse) = (t, m)) :
      s.dispose r.raw r.stamp = ((t, false), m) := by
    rw [State.dispose_none on hl, hd]
  refine ⟨fun hb => h.exec_eq (other (if_pos (State.rangeBlocked_iff.mpr hb))) (.refl s), fun hb => ?_⟩
  have open_ : s.rangeBlocked (usageRecord r.raw).card = false := by
    rw [Bool.eq_false_iff, ne_eq, State.rangeBlocked_iff]
    rintro ⟨i, hv, hm⟩
    rcases hb i with k | k
    · rw [k] at hv; cases hv
    · exact k hm
  refine ⟨fun hk => h.exec_eq (other (State.disposeOther_plain open_ (getD_ne_actionApplied hk))) (.refl s),
    fun ref hk hr => ⟨fun hn => ?_, fun hn => ?_⟩⟩
  · refine h.exec_eq (other ?_) (.refl s)
    have resolves : s.resolves ref = true := (s.named_iff _ _).mpr hn
    unfold State.disposeOther
    rw [if_neg (by simp [open_]), hk, hr]
    exact if_pos resolves
  · refine h.exec_eq (other ?_) (fun j => rfl)
    have foreign : ¬ s.resolves ref = true := fun k => by
      obtain ⟨h1, h2, h3⟩ := (s.named_iff _ _).mp k
      rcases hn with e | e | e
      · omega
      · exact h2 e
      · exact e h3
    unfold State.disposeOther
    rw [if_neg (by simp [open_]), hk, hr]
    exact if_neg foreign

/-! ### Records of a case that count nothing -/

theorem State.disposeNew_plain {s : State} {c : Nat} {u : UsageRecord} {kind : RecordKind} (hk : kind ≠ .actionApplied) :
    s.disposeNew c u kind = ((s, false), .newCard) := by
  cases kind with
  | actionApplied => exact absurd rfl hk
  | _ => rfl

theorem State.disposeNew_applied {s : State} {c : Nat} {u : UsageRecord} {ref : Ref} {mask : BitVec 4} (hk : u.kind = some .actionApplied)
    (hr : u.ref = some ref) (hm : u.mask = some mask) : s.disposeNew c u (u.kind.getD .purseUse) =
      s.takeCollection c u.card ref u.amount mask u.device := by
  unfold State.disposeNew
  rw [hk, hr, hm]
  rfl

/-- A ref of another case or another use of its record, of generation 0, or above the generations used, is foreign (R130). -/
theorem collectionRow_foreign {r : CaseRecord} {c : Nat} {ref : Ref} (h : ref.caseNo ≠ c ∨ ref.inst ≠ r.inst ∨ ref.generation = 0 ∨
    (r.generation < ref.generation ∧ ∀ o, r.outstanding = some o → o.generation ≠ ref.generation)) :
    collectionRow r c ref = .foreign := by
  unfold collectionRow
  by_cases h1 : ref.caseNo ≠ c ∨ ref.inst ≠ r.inst
  · exact if_pos h1
  rw [if_neg h1]
  by_cases h2 : ref.generation = 0
  · exact if_pos h2
  rw [if_neg h2]
  obtain ⟨hg, ho⟩ : r.generation < ref.generation ∧ ∀ o, r.outstanding = some o → o.generation ≠ ref.generation := by tauto
  cases hr : r.outstanding with
  | none => exact if_neg (by omega)
  | some o =>
    dsimp only
    rw [if_neg (fun e => ho o hr e.symm), if_neg (by omega)]

theorem classOf_pre_iff {deviceTime stamp blockInstant : Nat} : classOf deviceTime stamp blockInstant = .pre ↔
    deviceTime < blockInstant ∧ deviceTime ≤ stamp + 600 := by
  have slack : Config.untimedSlack = 600 := rfl
  unfold classOf
  rw [slack]
  by_cases h1 : stamp + 600 < deviceTime
  · simp [h1]
  · by_cases h2 : deviceTime < blockInstant
    · simp [h1, h2]; omega
    · simp [h1, h2]

/-- Settles O14: a new-card record by its kind and ref; an old-card record of a case that has ended by its class. -/
theorem caseRecordThatCountsNothing : Obligations.CaseRecordThatCountsNothing := by
  refine ⟨?_, ?_⟩
  · rintro s p rest r u c h on rfl hl
    refine ⟨fun hk => h.exec_eq ?_ (.refl s), fun ref mask hk hr hm hf => h.exec_eq ?_ (fun j => rfl)⟩
    · rw [State.dispose_new on hl, State.disposeNew_plain (getD_ne_actionApplied hk)]
    · rw [State.dispose_new on hl, State.disposeNew_applied hk hr hm]
      unfold State.takeCollection
      rw [collectionRow_foreign hf]
  · rintro s p rest r u c stamp h on rfl hl rfl
    refine ⟨fun hs => h.exec_eq (State.dispose_old on hl ?_) (.refl s), fun hs h1 h2 => h.exec_eq (State.dispose_old on hl ?_) (fun j => rfl),
      fun hs hn => h.exec_eq (State.dispose_old on hl ?_) (.refl s)⟩
    · unfold State.disposeOld
      dsimp only
      rw [hs]
    · unfold State.disposeOld
      dsimp only
      rw [hs]
      exact if_pos (classOf_pre_iff.mpr ⟨h1, h2⟩)
    · unfold State.disposeOld
      dsimp only
      rw [hs]
      refine if_neg fun k => ?_
      have := classOf_pre_iff.mp k
      omega

/-! ### Attachment sets no deadline -/

theorem State.caseAt_setCase_stands {s : State} {c : Nat} {r : CaseRecord} (h : r ≠ CaseRecord.reset) : (s.setCase c r).caseAt c = r := by
  unfold State.caseAt State.setCase
  dsimp only
  unfold tableSet
  rw [if_neg h]
  exact tableGet_insert_same

theorem CaseRecord.ne_reset {r : CaseRecord} (h : r.state ≠ .free) : r ≠ CaseRecord.reset := fun e => h (by rw [e]; rfl)

/-- The states and the deadlines of all cases are as they were. -/
def SameLives (s t : State) : Prop := ∀ j, (t.caseAt j).state = (s.caseAt j).state ∧ (t.caseAt j).deadline = (s.caseAt j).deadline

theorem SameLives.of_cases {s t : State} (h : t.cases = s.cases) : SameLives s t := fun j => by
  rw [State.caseAt_congr h]
  exact ⟨rfl, rfl⟩

theorem SameLives.trans {s t u : State} (h : SameLives s t) (k : SameLives t u) : SameLives s u :=
  fun j => ⟨(k j).1.trans (h j).1, (k j).2.trans (h j).2⟩

/-- Writing a record that stands, with the state and the deadline it had. -/
theorem SameLives.write {s t : State} {c : Nat} {r : CaseRecord} (hn : (s.caseAt c).state ≠ .free)
    (ht : t.cases = (s.setCase c r).cases) (hs : r.state = (s.caseAt c).state) (hd : r.deadline = (s.caseAt c).deadline) :
    SameLives s t := by
  intro j
  rw [State.caseAt_congr ht]
  by_cases h : j = c
  · rw [h, State.caseAt_setCase_stands (CaseRecord.ne_reset (hs ▸ hn))]
    exact ⟨hs, hd⟩
  · rw [s.caseAt_setCase_other h]
    exact ⟨rfl, rfl⟩

theorem SameLives.checkBreach {s : State} {c : Nat} (hn : (s.caseAt c).state ≠ .free) (csn : Nat) :
    SameLives s (s.checkBreach c csn) := by
  unfold State.checkBreach
  split
  · exact .write hn rfl rfl rfl
  · exact .of_cases rfl

theorem SameLives.takeNew {s : State} {c : Nat} (hn : (s.caseAt c).state ≠ .free) (a : Arrival) : SameLives s (s.takeNew c a).1 := by
  have hs : ((s.caseAt c).lockOn c a).state = (s.caseAt c).state := by rw [CaseRecord.lockOn_frame]
  have hd : ((s.caseAt c).lockOn c a).deadline = (s.caseAt c).deadline := by rw [CaseRecord.lockOn_frame]
  have placed {t : State} (h : SameLives s t) : SameLives s (t.placeEvidence c) := h.trans (.of_cases (by simp))
  unfold State.takeNew
  dsimp only
  split
  · exact placed (.write hn rfl hs hd)
  · exact placed (.write hn rfl hs hd)
  · exact placed (.write hn rfl hs hd)
  · exact .write hn rfl hs hd

theorem SameLives.attachOutcome {s : State} {c : Nat} (hn : (s.caseAt c).state ≠ .free) (a : Arrival) :
    SameLives s (s.attachOutcome c a).1 := by
  unfold State.attachOutcome
  dsimp only
  split
  · exact .of_cases rfl
  · split
    · split
      · exact .of_cases rfl
      · exact .write hn rfl rfl rfl
    · split
      · exact .of_cases rfl
      · exact .takeNew hn a

theorem SameLives.attach {s : State} {c : Nat} (hn : (s.caseAt c).state ≠ .free) (a : Arrival) : SameLives s (s.attach c a).1 := by
  have outcome := SameLives.attachOutcome hn a
  exact outcome.trans (.checkBreach (by rw [(outcome c).1]; exact hn) a.csn)

/-- Settles O15: each of the five live states routes the record to attachment. -/
theorem oldCardRecordOfALiveCaseIsAttached : Obligations.OldCardRecordOfALiveCaseIsAttached := by
  rintro s p rest r u c stamp kind a h on rfl hk hl rfl hlive rfl
  have stands : (s.caseAt c).state ≠ .free := fun e => by rw [e] at hlive; simp at hlive
  refine h.exec_eq (State.dispose_old on hl ?_) fun j => (SameLives.attach stands _ j).2
  unfold State.disposeOld
  dsimp only
  rw [hk]
  simp only [List.mem_cons, List.not_mem_nil, or_false] at hlive
  rcases hlive with e | e | e | e | e <;> rw [e] <;> rfl

end Sys2Proof.Machine
end

section
/-! PROOFS. Attachment (03): records already accounted for (O16), new evidence (O17), protection, discard and coverage (O18), and the lock of
the old card (O19). -/

namespace Sys2Proof.Machine

/-! ### Records already accounted for -/

/-- A record not above a lock CSN breaches nothing (R73). -/
theorem CaseRecord.breachedBy_eq_false {r : CaseRecord} {csn : Nat} (h : ∀ l, r.lockCsn = some l → csn ≤ l) :
    r.breachedBy csn = false := by
  unfold CaseRecord.breachedBy
  split
  · next l hl => simp [h l hl]
  · rfl

theorem State.checkBreach_none {s : State} {c csn : Nat} (h : (s.caseAt c).breachedBy csn = false) : s.checkBreach c csn = s :=
  if_neg (by simp [h])

/-- An attachment without a breach is its outcome (R73). -/
theorem State.attach_eq {s t : State} {c : Nat} {a : Arrival} {m : Mark} (h : s.attachOutcome c a = (t, m))
    (free : (t.caseAt c).breachedBy a.csn = false) : s.attach c a = (t, m) := by
  unfold State.attach
  rw [h, State.checkBreach_none free]

/-- Whether the two copies of a record agree in a field (R62). -/
def ComparedField.agrees (k a : Arrival) : ComparedField → Bool
  | .kind => decide (k.kind = a.kind)
  | .deviceTime => decide (k.deviceTime = a.deviceTime)
  | .device => decide (k.device = a.device)
  | .amount => decide (k.amount = a.amount)
  | .balanceAfter => decide (k.balanceAfter = a.balanceAfter)
  | .slot => decide (k.slot = a.slot)
  | .passAfter => passEqual? k.passAfter a.passAfter
  | .ref => decide (k.ref = a.ref)

/-- The fields in the order in which copies are compared (R62). -/
def comparedFields : List ComparedField := [.kind, .deviceTime, .device, .amount, .balanceAfter, .slot, .passAfter, .ref]

/-- The field logged is the first of the eight in which the copies differ (R62). -/
theorem firstDifference_eq_find? (k a : Arrival) : firstDifference k a = comparedFields.find? (fun f => !f.agrees k a) := by
  have step (f : ComparedField) (fs : List ComparedField) : (f :: fs).find? (fun f => !f.agrees k a) =
      if f.agrees k a = true then fs.find? (fun f => !f.agrees k a) else some f := by
    rw [List.find?_cons]
    cases f.agrees k a <;> rfl
  unfold firstDifference comparedFields
  simp only [step, List.find?_nil]
  simp only [ComparedField.agrees, decide_eq_true_eq, ne_eq, ite_not, Bool.not_eq_true', ← Bool.not_eq_true]

theorem mem_comparedFields (f : ComparedField) : f ∈ comparedFields := by cases f <;> decide

/-- The first of a list without repeats that a test picks, at its place. -/
theorem find?_eq_some_at {α : Type} {p : α → Bool} {before after : List α} {f : α} (distinct : (before ++ f :: after).Nodup) :
    (before ++ f :: after).find? p = some f ↔ p f = true ∧ ∀ g ∈ before, p g = false := by
  have absent : f ∉ before := fun h => (List.nodup_append.mp distinct).2.2 f h f (by simp) rfl
  constructor
  · intro h
    refine ⟨List.find?_some h, fun g hg => ?_⟩
    rw [List.find?_append] at h
    cases hb : before.find? p with
    | none => simpa using List.find?_eq_none.mp hb g hg
    | some x =>
      rw [hb] at h
      obtain rfl : x = f := Option.some.inj h
      exact absurd (List.mem_of_find?_eq_some hb) absent
  · rintro ⟨hf, hb⟩
    rw [List.find?_append, List.find?_eq_none.mpr fun g hg => by simp [hb g hg], List.find?_cons_of_pos hf]
    rfl

theorem passEqual?_iff {x y : Option PassState} : passEqual? x y = true ↔ (x = none ∧ y = none) ∨
    ∃ p q : PassState, x = some p ∧ y = some q ∧ p.product = q.product ∧ p.cls = q.cls ∧ p.firstDay = q.firstDay ∧
      p.lastDay = q.lastDay ∧ (p.cls = .count → p.rides = q.rides) := by
  cases x with
  | none => cases y <;> simp [passEqual?]
  | some p =>
    cases y with
    | none => simp [passEqual?]
    | some q =>
      have rides : (decide (p.cls = .period) || decide (p.rides = q.rides)) = true ↔ (p.cls = .count → p.rides = q.rides) := by
        cases p.cls <;> simp
      simp only [passEqual?, passEqual, Bool.and_eq_true, rides, decide_eq_true_eq]
      simp [and_assoc]

/-- Settles O16: the tests in their order; the fields in theirs. -/
theorem recordAlreadyAccountedFor : Obligations.RecordAlreadyAccountedFor := by
  refine ⟨fun s c a low => ?_, fun k a agree hagree => ?_⟩
  · have free : (s.caseAt c).breachedBy a.csn = false := CaseRecord.breachedBy_eq_false low
    refine ⟨fun hb => State.attach_eq (if_pos hb) free, fun hb => ⟨fun kept hk => ⟨fun hd => ?_, fun field hd => ?_⟩, fun hx hw hs => ?_⟩⟩
    · refine State.attach_eq ?_ free
      unfold State.attachOutcome
      dsimp only
      rw [if_neg (by omega), hk]
      dsimp only
      rw [hd]
    · refine State.attach_eq ?_ ?_
      · unfold State.attachOutcome
        dsimp only
        rw [if_neg (by omega), hk]
        dsimp only
        rw [hd]
      · have conflict : ({ s.caseAt c with flags := { (s.caseAt c).flags with conflict := true } } : CaseRecord) ≠ .reset :=
          fun e => by have := congrArg (fun r => r.flags.conflict) e; cases this
        rw [show ((s.setCase c _).logException _ _ _ _).caseAt c = _ from State.caseAt_setCase_stands conflict]
        exact free
    · refine State.attach_eq ?_ free
      have none_ : (s.caseAt c).arrivals.find? (fun x => x.csn == a.csn) = none := by
        rw [List.find?_eq_none]
        exact fun x m => by simpa using hx x m
      unfold State.attachOutcome
      dsimp only
      rw [if_neg (by omega), none_]
      exact if_pos (seen_iff.mpr ⟨⟨hb, hw⟩, hs⟩)
  · have agrees (f : ComparedField) : f.agrees k a = true ↔ agree f := by
      rw [hagree f]
      cases f with
      | passAfter => exact passEqual?_iff
      | _ => exact decide_eq_true_iff
    rw [firstDifference_eq_find?]
    constructor
    · rw [List.find?_eq_none]
      refine ⟨fun h f => (agrees f).mp (by simpa using h f (mem_comparedFields f)), fun h f _ => ?_⟩
      simp [(agrees f).mpr (h f)]
    · intro before after f hl
      have whole : comparedFields = before ++ f :: after := hl.symm
      rw [whole, find?_eq_some_at (whole ▸ (by decide : comparedFields.Nodup))]
      simp only [← agrees, Bool.not_eq_true', Bool.not_eq_false', Bool.not_eq_true]

/-! ### Protection, discard and coverage -/

/-- The holder of a role given by a test: the arrival the test picks with the highest CSN. -/
theorem holdsRole_highest {l : List Arrival} (distinct : l.Pairwise (fun a b => a.csn ≠ b.csn)) {a : Arrival} (ha : a ∈ l)
    (p : Arrival → Bool) : holdsRole (highest (l.filter p)) a = true ↔ p a = true ∧ ∀ b ∈ l, p b = true → b.csn ≤ a.csn := by
  constructor
  · intro h
    cases hh : highest (l.filter p) with
    | none => rw [hh] at h; cases h
    | some b =>
      rw [hh] at h
      obtain ⟨hb, hp⟩ := List.mem_filter.mp (highest_mem hh)
      obtain rfl := eq_of_csn_eq distinct hb ha (by simpa [holdsRole] using h)
      exact ⟨hp, fun x hx hpx => csn_le_of_highest hh x (List.mem_filter.mpr ⟨hx, hpx⟩)⟩
  · rintro ⟨hp, hmax⟩
    rw [highest_eq_some (distinct.filter _) (List.mem_filter.mpr ⟨ha, hp⟩) fun b hb => by
      obtain ⟨hb, hpb⟩ := List.mem_filter.mp hb
      exact hmax b hb hpb]
    simp [holdsRole]

theorem holdsRole_lowest {l : List Arrival} (distinct : l.Pairwise (fun a b => a.csn ≠ b.csn)) {a : Arrival} (ha : a ∈ l)
    (p : Arrival → Bool) : holdsRole (lowest (l.filter p)) a = true ↔ p a = true ∧ ∀ b ∈ l, p b = true → a.csn ≤ b.csn := by
  constructor
  · intro h
    cases hh : lowest (l.filter p) with
    | none => rw [hh] at h; cases h
    | some b =>
      rw [hh] at h
      obtain ⟨hb, hp⟩ := List.mem_filter.mp (lowest_mem hh)
      obtain rfl := eq_of_csn_eq distinct hb ha (by simpa [holdsRole] using h)
      exact ⟨hp, fun x hx hpx => csn_ge_of_lowest hh x (List.mem_filter.mpr ⟨hx, hpx⟩)⟩
  · rintro ⟨hp, hmin⟩
    rw [lowest_eq_some (distinct.filter _) (List.mem_filter.mpr ⟨ha, hp⟩) fun b hb => by
      obtain ⟨hb, hpb⟩ := List.mem_filter.mp hb
      exact hmin b hb hpb]
    simp [holdsRole]

theorem Arrival.isPre_iff {a : Arrival} : a.isPre = true ↔ a.cls = .pre := decide_eq_true_iff

theorem Arrival.carries_iff {a : Arrival} {slot : PassSlot} : a.carries slot = true ↔ a.slot = some slot ∧ a.passAfter.isSome = true := by
  simp [Arrival.carries]

theorem mem_allSlots (slot : PassSlot) : slot ∈ allSlots := by
  revert slot; decide

/-- Protected is holding one of the roles (R67). -/
theorem protectedIn_iff_role {l : List Arrival} {a : Arrival} : protectedIn l a = true ↔
    holdsRole (anchorOf l) a = true ∨ (∃ slot, holdsRole (sourceOf l slot) a = true) ∨ holdsRole (firstAfter l) a = true := by
  have slots : (!(allSlots.filter (fun s => holdsRole (sourceOf l s) a)).isEmpty) = true ↔
      ∃ slot, holdsRole (sourceOf l slot) a = true := by
    rw [Bool.not_eq_true', ← Bool.not_eq_true, List.isEmpty_iff, List.filter_eq_nil_iff]
    simp [mem_allSlots]
  simp only [protectedIn, rolesIn, Bool.or_eq_true, slots, or_assoc]

/-- Who is protected (R67). -/
theorem protectedIn_iff {l : List Arrival} (distinct : l.Pairwise (fun a b => a.csn ≠ b.csn)) {a : Arrival} (ha : a ∈ l) :
    protectedIn l a = true ↔
      (a.cls = .pre ∧ ∀ b ∈ l, b.cls = .pre → b.csn ≤ a.csn) ∨
      (∃ slot : PassSlot, a.cls = .pre ∧ a.slot = some slot ∧ a.passAfter.isSome = true ∧
        ∀ b ∈ l, b.cls = .pre → b.slot = some slot → b.passAfter.isSome = true → b.csn ≤ a.csn) ∨
      (a.cls ≠ .pre ∧ ∀ b ∈ l, b.cls ≠ .pre → a.csn ≤ b.csn) := by
  rw [protectedIn_iff_role]
  refine or_congr ?_ (or_congr (exists_congr fun slot => ?_) ?_)
  · rw [anchorOf, holdsRole_highest distinct ha]
    simp only [Arrival.isPre_iff]
  · rw [sourceOf, holdsRole_highest distinct ha]
    simp only [Bool.and_eq_true, Arrival.isPre_iff, Arrival.carries_iff, and_assoc, and_imp]
  · rw [firstAfter, holdsRole_lowest distinct ha]
    simp only [Bool.not_eq_true', ← Bool.not_eq_true, Arrival.isPre_iff, ne_eq]

/-- The CSNs of the six roles of a list (R67). -/
def roleCsns (l : List Arrival) : List Nat :=
  ([anchorOf l, sourceOf l 0, sourceOf l 1, sourceOf l 2, sourceOf l 3, firstAfter l].filterMap id).map Arrival.csn

theorem mem_roleCsns {l : List Arrival} {a : Arrival} (h : protectedIn l a = true) : a.csn ∈ roleCsns l := by
  have held {role : Option Arrival} (k : holdsRole role a = true) : ∃ b, role = some b ∧ b.csn = a.csn := by
    cases role with
    | none => cases k
    | some b => exact ⟨b, rfl, by simpa [holdsRole] using k⟩
  have role {x : Option Arrival} (hm : x ∈ [anchorOf l, sourceOf l 0, sourceOf l 1, sourceOf l 2, sourceOf l 3, firstAfter l])
      (k : holdsRole x a = true) : a.csn ∈ roleCsns l := by
    obtain ⟨b, hb, hc⟩ := held k
    exact List.mem_map.mpr ⟨b, List.mem_filterMap.mpr ⟨x, hm, hb⟩, hc⟩
  rcases protectedIn_iff_role.mp h with k | ⟨slot, k⟩ | k
  · exact role (by simp) k
  · refine role ?_ k
    revert slot
    simp [Fin.forall_fin_succ]
  · exact role (by simp) k

/-- At most six of a list are protected (R67). -/
theorem protectedIn_count {l : List Arrival} (distinct : l.Pairwise (fun a b => a.csn ≠ b.csn)) :
    (l.filter (fun a => protectedIn l a)).length ≤ 6 := by
  have nodup : ((l.filter (fun a => protectedIn l a)).map Arrival.csn).Nodup := List.pairwise_map.mpr (distinct.filter _)
  have within_ : (l.filter (fun a => protectedIn l a)).map Arrival.csn ⊆ roleCsns l := by
    intro n hn
    obtain ⟨a, ha, rfl⟩ := List.mem_map.mp hn
    exact mem_roleCsns (List.mem_filter.mp ha).2
  calc (l.filter (fun a => protectedIn l a)).length
      = ((l.filter (fun a => protectedIn l a)).map Arrival.csn).length := (List.length_map _).symm
    _ ≤ (roleCsns l).length := (List.subperm_of_subset nodup within_).length_le
    _ ≤ 6 := by
        rw [roleCsns, List.length_map]
        exact List.length_filterMap_le _ _

/-- The arrivals of a list that a new one leaves unprotected (R69). -/
def spareFor (l : List Arrival) (a : Arrival) : List Arrival := l.filter (fun x => !protectedIn (a :: l) x)

theorem mem_spareFor {l : List Arrival} {a x : Arrival} : x ∈ spareFor l a ↔ x ∈ l ∧ protectedIn (a :: l) x = false := by
  simp [spareFor]

/-- Which arrival is discarded (R69). -/
theorem victimOf_cases (l : List Arrival) (a : Arrival) :
    (∃ v, victimOf l a = some v ∧ highest ((spareFor l a).filter (fun x => !x.isPre)) = some v) ∨
      ((∀ x ∈ spareFor l a, x.cls = .pre) ∧ victimOf l a = lowest ((spareFor l a).filter Arrival.isPre)) := by
  have shape : victimOf l a = (highest ((spareFor l a).filter (fun x => !x.isPre))).or (lowest ((spareFor l a).filter Arrival.isPre)) := by
    unfold victimOf spareFor
    dsimp only
    split
    · next h => rw [h]; rfl
    · next h => rw [h]; rfl
  rw [shape]
  cases h : highest ((spareFor l a).filter (fun x => !x.isPre)) with
  | some v => exact .inl ⟨v, rfl, rfl⟩
  | none =>
    refine .inr ⟨fun x hx => ?_, rfl⟩
    have := List.filter_eq_nil_iff.mp (highest_eq_none_iff.mp h) x hx
    simpa [Arrival.isPre] using this

/-- The coverage flag of a CSN, set for it alone (R66). -/
theorem cover_flag {cov : BitVec 256} {base csn k : Nat} (hk : k < 256) :
    (cover cov base csn).getLsbD k = (cov.getLsbD k || decide (csn = base + 1 + k)) := by
  have span : Config.coverageSpan = 256 := rfl
  unfold cover
  rw [span]
  split
  · next h =>
    rw [BitVec.getLsbD_or, BitVec.getLsbD_ofNat, Nat.testBit_two_pow]
    simp only [hk, decide_true, Bool.true_and]
    congr 1
    rw [decide_eq_decide]
    omega
  · next h =>
    rw [show decide (csn = base + 1 + k) = false from decide_eq_false (by omega), Bool.or_false]

theorem seen_cover {cov : BitVec 256} {base csn n : Nat} : seen (cover cov base csn) base n = true ↔
    seen cov base n = true ∨ (n = csn ∧ base < n ∧ n ≤ base + 256) := by
  rw [seen_iff, seen_iff]
  by_cases h : base < n ∧ n ≤ base + 256
  · rw [cover_flag (by omega), Bool.or_eq_true, decide_eq_true_eq]
    have : csn = base + 1 + (n - base - 1) ↔ n = csn := by omega
    rw [this]
    tauto
  · tauto

/-- Settles O18: protection through the roles of a list, the discarded arrival through the search among the spare ones. -/
theorem protectionDiscardAndCoverage : Obligations.ProtectionDiscardAndCoverage := by
  refine ⟨fun l distinct => ⟨fun a ha => protectedIn_iff distinct ha, protectedIn_count distinct⟩, fun l a => ⟨?_, fun v hv => ?_⟩,
    fun cov base csn n => seen_cover⟩
  · constructor
    · intro h x hx
      by_contra hp
      have spare : x ∈ spareFor l a := mem_spareFor.mpr ⟨hx, by simpa using hp⟩
      rcases victimOf_cases l a with ⟨v, hv, -⟩ | ⟨pre, hv⟩
      · rw [h] at hv; cases hv
      · rw [h] at hv
        have := List.filter_eq_nil_iff.mp (lowest_eq_none_iff.mp hv.symm) x spare
        exact this (Arrival.isPre_iff.mpr (pre x spare))
    · intro h
      cases hv : victimOf l a with
      | none => rfl
      | some v =>
        obtain ⟨hm, hp⟩ := victimOf_spec hv
        rw [h v hm] at hp
        cases hp
  · obtain ⟨hm, hp⟩ := victimOf_spec hv
    refine ⟨hm, hp, ?_⟩
    rcases victimOf_cases l a with ⟨w, hw, top⟩ | ⟨pre, bottom⟩
    · obtain rfl := Option.some.inj (hv.symm.trans hw)
      have after : v.cls ≠ .pre := by
        simpa [Arrival.isPre] using (List.mem_filter.mp (highest_mem top)).2
      exact .inl ⟨after, fun x hx hxp hc => csn_le_of_highest top x (List.mem_filter.mpr
        ⟨mem_spareFor.mpr ⟨hx, hxp⟩, by simpa [Arrival.isPre] using hc⟩)⟩
    · have spare : v ∈ spareFor l a := mem_spareFor.mpr ⟨hm, hp⟩
      refine .inr ⟨pre v spare, fun x hx hxp => ?_⟩
      have other : x ∈ spareFor l a := mem_spareFor.mpr ⟨hx, hxp⟩
      exact ⟨pre x other, csn_ge_of_lowest (bottom.symm.trans hv) x (List.mem_filter.mpr ⟨other, Arrival.isPre_iff.mpr (pre x other)⟩)⟩

/-! ### New evidence -/

/-- Case `c` in `t` has the lock a record has: its lock CSN, CARD_LOCKED and LOCK_BREACH (R72, R73). -/
def LockedAs (r q : CaseRecord) : Prop :=
  q.lockCsn = r.lockCsn ∧ q.flags.cardLocked = r.flags.cardLocked ∧ q.flags.lockBreach = r.flags.lockBreach

theorem LockedAs.breachedBy {r q : CaseRecord} (h : LockedAs r q) (csn : Nat) : q.breachedBy csn = r.breachedBy csn := by
  obtain ⟨h1, h2, -⟩ := h
  unfold CaseRecord.breachedBy
  rw [h1, h2]

theorem State.checkBreach_cases (s : State) (c csn : Nat) : s.checkBreach c csn = { s with cases := (s.checkBreach c csn).cases } := by
  unfold State.checkBreach
  split <;> rfl

/-- The breach check sets LOCK_BREACH and nothing else (R73). -/
theorem State.checkBreach_caseAt {s : State} (hw : s.tableOk) (c csn : Nat) : (s.checkBreach c csn).caseAt c =
    { s.caseAt c with flags := { (s.caseAt c).flags with
      lockBreach := (s.caseAt c).flags.lockBreach || (s.caseAt c).breachedBy csn } } := by
  unfold State.checkBreach
  split
  · next h => rw [s.caseAt_setCase_same hw.1, h, Bool.or_true]; rfl
  · next h => rw [Bool.not_eq_true _ |>.mp h, Bool.or_false]

theorem State.checkBreach_other {s : State} {c j : Nat} (csn : Nat) (h : j ≠ c) : (s.checkBreach c csn).caseAt j = s.caseAt j := by
  unfold State.checkBreach
  split
  · exact s.caseAt_setCase_other h _
  · rfl

section New
variable {s : State} {c : Nat} {a : Arrival}

theorem State.attachOutcome_new (hb : (s.caseAt c).baselineCsn < a.csn) (hx : ∀ x ∈ (s.caseAt c).arrivals, x.csn ≠ a.csn)
    (hs : seen (s.caseAt c).coverage (s.caseAt c).baselineCsn a.csn = false) : s.attachOutcome c a = s.takeNew c a := by
  have none_ : (s.caseAt c).arrivals.find? (fun x => x.csn == a.csn) = none := by
    rw [List.find?_eq_none]
    exact fun x m => by simpa using hx x m
  unfold State.attachOutcome
  dsimp only
  rw [if_neg (by omega), none_]
  exact if_neg (by simp [hs])

/-- Evidence that is kept or discarded (R64, R68 to R70). -/
theorem State.takeNew_taken (h : ((s.caseAt c).arrivals.length < 32 ∧ 0 < s.poolFree) ∨
    (∃ v, victimOf (s.caseAt c).arrivals a = some v) ∨ protectedIn (a :: (s.caseAt c).arrivals) a = false) :
    ∃ arrivals pruned free, s.takeNew c a = ((State.placeEvidence { s.setCase c { ((s.caseAt c).lockOn c a).taken a with
        arrivals := arrivals, pruned := pruned } with poolFree := free } c), a.cls.mark) ∧
      ((s.caseAt c).arrivals.length < 32 ∧ 0 < s.poolFree →
        arrivals = insertArrival (s.caseAt c).arrivals a ∧ pruned = (s.caseAt c).pruned ∧ free = s.poolFree - 1) ∧
      (¬((s.caseAt c).arrivals.length < 32 ∧ 0 < s.poolFree) → free = s.poolFree ∧
        (∀ v, victimOf (s.caseAt c).arrivals a = some v →
          arrivals = insertArrival (removeArrival (s.caseAt c).arrivals v.csn) a ∧ pruned = bumpPruned (s.caseAt c).pruned) ∧
        (victimOf (s.caseAt c).arrivals a = none →
          arrivals = (s.caseAt c).arrivals ∧ pruned = bumpPruned (s.caseAt c).pruned)) := by
  have list : ((s.caseAt c).lockOn c a).arrivals = (s.caseAt c).arrivals := by rw [CaseRecord.lockOn_frame]
  have pruned : ((s.caseAt c).lockOn c a).pruned = (s.caseAt c).pruned := by rw [CaseRecord.lockOn_frame]
  by_cases room : (s.caseAt c).arrivals.length < 32 ∧ 0 < s.poolFree
  · have found : findRoom (s.caseAt c).arrivals s.poolFree a = .kept (insertArrival (s.caseAt c).arrivals a) true := if_pos room
    refine ⟨_, (s.caseAt c).pruned, s.poolFree - 1, ?_, fun _ => ⟨rfl, rfl, rfl⟩, fun k => absurd room k⟩
    unfold State.takeNew
    dsimp only
    rw [list, found, ← pruned]
    rfl
  · have found : findRoom (s.caseAt c).arrivals s.poolFree a = _ := if_neg room
    cases hv : victimOf (s.caseAt c).arrivals a with
    | some v =>
      rw [hv] at found
      refine ⟨insertArrival (removeArrival (s.caseAt c).arrivals v.csn) a, bumpPruned (s.caseAt c).pruned, s.poolFree, ?_,
        fun k => absurd k room, fun _ => ⟨rfl, fun w hw => ?_, fun k => (by cases k)⟩⟩
      · unfold State.takeNew
        dsimp only
        rw [list, found, pruned]
        rfl
      · obtain rfl := Option.some.inj hw
        exact ⟨rfl, rfl⟩
    | none =>
      have unprotected : protectedIn (a :: (s.caseAt c).arrivals) a = false := by
        rcases h with h | ⟨v, h⟩ | h
        · exact absurd h room
        · rw [hv] at h; cases h
        · exact h
      rw [hv] at found
      dsimp only at found
      rw [unprotected] at found
      refine ⟨(s.caseAt c).arrivals, bumpPruned (s.caseAt c).pruned, s.poolFree, ?_, fun k => absurd k room,
        fun _ => ⟨rfl, fun w hw => (by cases hw), fun _ => ⟨rfl, rfl⟩⟩⟩
      unfold State.takeNew
      dsimp only
      rw [← list] at found ⊢
      rw [found, pruned]
      rfl

/-- Evidence left unattached (R71). -/
theorem State.takeNew_unattached (room : ¬((s.caseAt c).arrivals.length < 32 ∧ 0 < s.poolFree))
    (hv : victimOf (s.caseAt c).arrivals a = none) (hp : protectedIn (a :: (s.caseAt c).arrivals) a = true) :
    s.takeNew c a = ((s.setCase c { (s.caseAt c).lockOn c a with
      flags := { ((s.caseAt c).lockOn c a).flags with evidenceLost := true } }).logException (some c)
        (some (s.caseAt c).oldCard) (some a.device) (.poolExhausted a.csn a.cls), .oldUnattached) := by
  have list : ((s.caseAt c).lockOn c a).arrivals = (s.caseAt c).arrivals := by rw [CaseRecord.lockOn_frame]
  have card : ((s.caseAt c).lockOn c a).oldCard = (s.caseAt c).oldCard := by rw [CaseRecord.lockOn_frame]
  have found : findRoom (s.caseAt c).arrivals s.poolFree a = .unattached := by
    unfold findRoom
    rw [if_neg (show ¬ ((s.caseAt c).arrivals.length < Config.listArrivals ∧ _) from room), hv]
    exact if_pos hp
  unfold State.takeNew
  dsimp only
  rw [list, found, card]

/-- The lock of a case after new evidence, whatever room it found (R72). -/
theorem State.takeNew_locked (hw : s.tableOk) : LockedAs ((s.caseAt c).lockOn c a) ((s.takeNew c a).1.caseAt c) := by
  have written {t : State} {r : CaseRecord} (ht : t.cases = (s.setCase c r).cases) (hr : LockedAs ((s.caseAt c).lockOn c a) r) :
      LockedAs ((s.caseAt c).lockOn c a) (t.caseAt c) := by
    rwa [State.caseAt_congr ht, s.caseAt_setCase_same hw.1]
  unfold State.takeNew
  dsimp only
  split
  · exact written (State.placeEvidence_cases _ c) ⟨rfl, rfl, rfl⟩
  · exact written (State.placeEvidence_cases _ c) ⟨rfl, rfl, rfl⟩
  · exact written (State.placeEvidence_cases _ c) ⟨rfl, rfl, rfl⟩
  · exact written rfl ⟨rfl, rfl, rfl⟩

end New

/-- The settle request that evidence places, where none of its case waits (R65, R77). -/
theorem State.placeEvidence_settle {s : State} {c : Nat} {r : CaseRecord} (h : ∀ w ∈ s.settle.fifo, w.caseNo ≠ c)
    (hstate : (s.caseAt c).state = r.state) (htiming : (s.caseAt c).timing = r.timing)
    (hforced : (s.caseAt c).flags.forced = r.flags.forced) :
    (s.placeEvidence c).settle = { s.settle with fifo := s.settle.fifo ++
      (match r.state with
        | .collecting => if (∃ tm, r.timing = some tm ∧ tm.earlySettle = true) then [⟨c, .early⟩] else []
        | .issued | .lapsed | .collected => if r.flags.forced then [] else [⟨c, .recompute⟩]
        | .free | .held | .closed | .cancelled => []) } := by
  have absent (m : SettleMode) : (s.placeRequest ⟨c, m⟩ false).settle = { s.settle with fifo := s.settle.fifo ++ [⟨c, m⟩] } := by
    have none_ : s.settle.fifo.find? (fun w => w.caseNo == c) = none := by
      rw [List.find?_eq_none]
      exact fun w hw => by simpa using h w hw
    unfold State.placeRequest
    rw [none_]
  have early : (r.timing.map Timing.earlySettle).getD false = true ↔ ∃ tm, r.timing = some tm ∧ tm.earlySettle = true := by
    cases r.timing <;> simp
  unfold State.placeEvidence requestOnEvidence
  rw [hstate, htiming, hforced]
  cases r.state with
  | collecting =>
    dsimp only
    by_cases h : ∃ tm, r.timing = some tm ∧ tm.earlySettle = true
    · rw [if_pos (early.mpr h), if_pos h]
      exact absent _
    · rw [if_neg (fun k => h (early.mp k)), if_neg h, List.append_nil]
  | issued | lapsed | collected =>
    dsimp only
    cases r.flags.forced
    · exact absent _
    · simp
  | _ => simp

theorem State.placeEvidence_frame (s : State) (c : Nat) : s.placeEvidence c = { s with settle := (s.placeEvidence c).settle } := by
  unfold State.placeEvidence State.placeRequest
  split
  · split
    · rfl
    · split <;> rfl
  · rfl

theorem State.takeNew_frame (s : State) (c : Nat) (a : Arrival) : (s.takeNew c a).1 = { s with
    cases := (s.takeNew c a).1.cases, poolFree := (s.takeNew c a).1.poolFree, settle := (s.takeNew c a).1.settle
    log := (s.takeNew c a).1.log, notices := (s.takeNew c a).1.notices } := by
  unfold State.takeNew
  dsimp only
  split
  · exact (State.placeEvidence_frame _ c).trans (by rw [State.placeEvidence_frame]; rfl)
  · exact (State.placeEvidence_frame _ c).trans (by rw [State.placeEvidence_frame]; rfl)
  · exact (State.placeEvidence_frame _ c).trans (by rw [State.placeEvidence_frame]; rfl)
  · rfl

theorem ArrivalClass.mark_eq (k : ArrivalClass) :
    k.mark = (match k with | .pre => .oldPre | .post => .oldPost | .untimed => .oldUntimed) := by cases k <;> rfl

/-- What the part holds after evidence that is kept or discarded, before the breach check (R64, R65, R68 to R70). -/
theorem State.takeNew_taken_part {s : State} {c : Nat} {a : Arrival} (hw : s.tableOk) (hwait : ∀ w ∈ s.settle.fifo, w.caseNo ≠ c)
    {arrivals : List Arrival} {pruned free : Nat} {m : Mark} (e : s.takeNew c a = ((State.placeEvidence { s.setCase c
      { ((s.caseAt c).lockOn c a).taken a with arrivals := arrivals, pruned := pruned } with poolFree := free } c), m)) :
    (s.takeNew c a).1.caseAt c = { ((s.caseAt c).lockOn c a).taken a with arrivals := arrivals, pruned := pruned } ∧
    (s.takeNew c a).1.poolFree = free ∧ (s.takeNew c a).1.log = s.log ∧ (s.takeNew c a).1.notices = s.notices ∧
    (s.takeNew c a).1.settle = { s.settle with fifo := s.settle.fifo ++
      (match (s.caseAt c).state with
        | .collecting => if (∃ tm, (s.caseAt c).timing = some tm ∧ tm.earlySettle = true) then [⟨c, .early⟩] else []
        | .issued | .lapsed | .collected => if (s.caseAt c).flags.forced then [] else [⟨c, .recompute⟩]
        | .free | .held | .closed | .cancelled => []) } := by
  have written : (State.placeEvidence { s.setCase c { ((s.caseAt c).lockOn c a).taken a with
      arrivals := arrivals, pruned := pruned } with poolFree := free } c).caseAt c =
        { ((s.caseAt c).lockOn c a).taken a with arrivals := arrivals, pruned := pruned } := by
    rw [State.caseAt_congr (State.placeEvidence_cases _ c)]
    exact s.caseAt_setCase_same hw.1 c _
  have record : ({ s.setCase c { ((s.caseAt c).lockOn c a).taken a with
      arrivals := arrivals, pruned := pruned } with poolFree := free } : State).caseAt c =
        { ((s.caseAt c).lockOn c a).taken a with arrivals := arrivals, pruned := pruned } := s.caseAt_setCase_same hw.1 c _
  have state : (((s.caseAt c).lockOn c a).taken a).state = (s.caseAt c).state := by rw [CaseRecord.lockOn_frame]; rfl
  have timing : (((s.caseAt c).lockOn c a).taken a).timing = (s.caseAt c).timing := by rw [CaseRecord.lockOn_frame]; rfl
  have forced : (((s.caseAt c).lockOn c a).taken a).flags.forced = (s.caseAt c).flags.forced := by rw [CaseRecord.lockOn_frame]; rfl
  have placed := State.placeEvidence_settle (s := { s.setCase c { ((s.caseAt c).lockOn c a).taken a with
      arrivals := arrivals, pruned := pruned } with poolFree := free }) (c := c) hwait
      ((congrArg CaseRecord.state record).trans state) ((congrArg CaseRecord.timing record).trans timing)
      ((congrArg (fun r : CaseRecord => r.flags.forced) record).trans forced)
  rw [e]
  exact ⟨written, by simp, by simp, by simp, placed⟩

/-- Settles O17: the lock, then the room found, then the breach check. -/
theorem newEvidenceFindsRoomOrNot : Obligations.NewEvidenceFindsRoomOrNot := by
  rintro s c a r hw rfl hn hb hx hs hwait
  have outcome := State.attachOutcome_new hb hx hs
  have step := AttachStep.takeNew hw hn hb hx
  have lock := State.takeNew_locked (c := c) (a := a) hw
  have attached : (s.attach c a).1 = (s.takeNew c a).1.checkBreach c a.csn := by unfold State.attach; rw [outcome]
  have mark : (s.attach c a).2 = (s.takeNew c a).2 := by unfold State.attach; rw [outcome]
  have breach := (s.takeNew c a).1.checkBreach_cases c a.csn
  have record := State.checkBreach_caseAt step.table c a.csn
  rw [mark]
  refine ⟨(s.takeNew c a).1.checkBreach c a.csn, _, attached.symm, fun j hj => ?_, ?_, rfl, fun low other => ?_, fun taken => ?_,
    fun room => ?_, fun room => ⟨?_, fun v hv => ?_, fun hv hp => ?_, fun hv hp => ?_⟩⟩
  · rw [State.checkBreach_other _ hj, step.other j hj]
  · rw [breach]
    exact (congrArg (fun u : State => { u with cases := ((s.takeNew c a).1.checkBreach c a.csn).cases }) (s.takeNew_frame c a)).trans rfl
  · have same : (s.caseAt c).lockOn c a = s.caseAt c := if_neg fun ⟨h1, h2, _⟩ => other ⟨h1, h2⟩
    rw [record]
    dsimp only
    rw [lock.1, lock.2.1, lock.2.2, lock.breachedBy, same, CaseRecord.breachedBy_eq_false low, Bool.or_false]
  · obtain ⟨arrivals, pruned, free, e, -, -⟩ := State.takeNew_taken (a := a) taken
    obtain ⟨after, -, log, notices, settle⟩ := State.takeNew_taken_part hw hwait e
    rw [breach]
    refine ⟨(congrArg Prod.snd e).trans a.cls.mark_eq, log, notices, congrArg (·.inFlight) settle, congrArg (·.fifo) settle, ?_⟩
    rw [← breach, record, after, CaseRecord.lockOn_frame]
    rfl
  · obtain ⟨arrivals, pruned, free, e, found, -⟩ := State.takeNew_taken (a := a) (.inl room)
    obtain ⟨after, pool, -⟩ := State.takeNew_taken_part hw hwait e
    obtain ⟨rfl, rfl, rfl⟩ := found room
    rw [record, after]
    exact ⟨rfl, rfl, by rw [breach]; exact pool⟩
  · rw [breach]
    by_cases taken : (∃ v, victimOf (s.caseAt c).arrivals a = some v) ∨ protectedIn (a :: (s.caseAt c).arrivals) a = false
    · obtain ⟨arrivals, pruned, free, e, -, found⟩ := State.takeNew_taken (a := a) (.inr taken)
      obtain ⟨-, pool, -⟩ := State.takeNew_taken_part hw hwait e
      exact pool.trans (found room).1
    · rw [not_or, not_exists, Bool.not_eq_false, ← Option.eq_none_iff_forall_ne_some] at taken
      exact congrArg (fun x : State × Mark => x.1.poolFree) (State.takeNew_unattached room taken.1 taken.2)
  · obtain ⟨arrivals, pruned, free, e, -, found⟩ := State.takeNew_taken (a := a) (.inr (.inl ⟨v, hv⟩))
    obtain ⟨after, -⟩ := State.takeNew_taken_part hw hwait e
    obtain ⟨-, kept, -⟩ := found room
    obtain ⟨rfl, rfl⟩ := kept v hv
    rw [record, after]
    exact ⟨rfl, rfl⟩
  · obtain ⟨arrivals, pruned, free, e, -, found⟩ := State.takeNew_taken (a := a) (.inr (.inr hp))
    obtain ⟨after, -⟩ := State.takeNew_taken_part hw hwait e
    obtain ⟨-, -, discarded⟩ := found room
    obtain ⟨rfl, rfl⟩ := discarded hv
    rw [record, after]
    exact ⟨rfl, rfl⟩
  · have e := State.takeNew_unattached room hv hp
    have after : (s.takeNew c a).1.caseAt c = { (s.caseAt c).lockOn c a with
        flags := { ((s.caseAt c).lockOn c a).flags with evidenceLost := true } } := by
      rw [e]
      exact s.caseAt_setCase_same hw.1 c _
    refine ⟨by rw [e], by rw [breach, e]; rfl, ?_, by rw [breach, e]; rfl⟩
    rw [record, after, CaseRecord.lockOn_frame]

/-! ### The lock -/

theorem coveredAbove_iff {coverage : BitVec 256} {baseline csn n : Nat} : coveredAbove coverage baseline csn n = true ↔
    ∃ k, k < n ∧ csn < baseline + 1 + k ∧ coverage.getLsbD k = true := by
  induction n with
  | zero => simp [coveredAbove]
  | succ n ih =>
    rw [coveredAbove, Bool.or_eq_true, ih, Bool.and_eq_true, decide_eq_true_eq]
    constructor
    · rintro (⟨h1, h2⟩ | ⟨k, h0, h⟩)
      · exact ⟨n, by omega, h1, h2⟩
      · exact ⟨k, by omega, h⟩
    · rintro ⟨k, h0, h1, h2⟩
      by_cases e : k = n
      · exact .inl (e ▸ ⟨h1, h2⟩)
      · exact .inr ⟨k, by omega, h1, h2⟩

/-- A flag above a CSN is a seen CSN above it (R66, R73). -/
theorem coveredAbove_iff_seen {coverage : BitVec 256} {baseline csn : Nat} :
    coveredAbove coverage baseline csn Config.coverageSpan = true ↔ ∃ n, csn < n ∧ seen coverage baseline n = true := by
  rw [coveredAbove_iff]
  constructor
  · rintro ⟨k, hk, h1, h2⟩
    have span : k < 256 := hk
    refine ⟨baseline + 1 + k, h1, seen_iff.mpr ⟨by omega, ?_⟩⟩
    rwa [show baseline + 1 + k - baseline - 1 = k by omega]
  · rintro ⟨n, h1, h2⟩
    obtain ⟨⟨h3, h4⟩, h5⟩ := seen_iff.mp h2
    exact ⟨n - baseline - 1, show n - baseline - 1 < 256 by omega, by omega, h5⟩

/-- Whatever the outcome of attachment, a case that is locked stays locked as it is (R72). -/
theorem State.attachOutcome_locked {s : State} (hw : s.tableOk) {c : Nat} {a : Arrival} (h : (s.caseAt c).flags.cardLocked = true) :
    LockedAs (s.caseAt c) ((s.attachOutcome c a).1.caseAt c) := by
  have same : (s.caseAt c).lockOn c a = s.caseAt c := if_neg fun ⟨_, _, k⟩ => by rw [h] at k; cases k
  unfold State.attachOutcome
  dsimp only
  split
  · exact ⟨rfl, rfl, rfl⟩
  · split
    · split
      · exact ⟨rfl, rfl, rfl⟩
      · show LockedAs _ ((s.setCase c _).caseAt c)
        rw [s.caseAt_setCase_same hw.1]
        exact ⟨rfl, rfl, rfl⟩
    · split
      · exact ⟨rfl, rfl, rfl⟩
      · have := State.takeNew_locked (c := c) (a := a) hw
        rwa [same] at this

/-- Settles O19: the lock is set with the record that is taken as new; the breach check runs on every record. -/
theorem lockOfTheOldCard : Obligations.LockOfTheOldCard := by
  rintro s c a r hw rfl hn
  refine ⟨fun unlocked hl hk href hb hx hs => ?_, fun l locked hl => ?_⟩
  · have sets : (s.caseAt c).lockOn c a = _ := if_pos ⟨hk, href, unlocked⟩
    have lock := State.takeNew_locked (c := c) (a := a) hw
    have attached : (s.attach c a).1 = (s.takeNew c a).1.checkBreach c a.csn := by
      unfold State.attach; rw [State.attachOutcome_new hb hx hs]
    have own : ((s.caseAt c).lockOn c a).breachedBy a.csn = false := by
      refine CaseRecord.breachedBy_eq_false fun l h => ?_
      rw [sets] at h
      exact Nat.le_of_eq (Option.some.inj h)
    rw [attached, State.checkBreach_caseAt (AttachStep.takeNew hw hn hb hx).table]
    dsimp only
    rw [lock.1, lock.2.1, lock.2.2, lock.breachedBy, own, Bool.or_false, sets]
    refine ⟨rfl, rfl, ?_⟩
    simp only [Bool.or_eq_true, List.any_eq_true, decide_eq_true_eq, coveredAbove_iff_seen, or_assoc]
  · have lock := State.attachOutcome_locked hw (a := a) locked
    have breaks : (s.caseAt c).breachedBy a.csn = decide (l < a.csn) := by
      unfold CaseRecord.breachedBy
      rw [hl, locked]
      rfl
    have record : (s.attach c a).1.caseAt c = _ := State.checkBreach_caseAt (AttachStep.attachOutcome hw hn a).table c a.csn
    rw [record]
    dsimp only
    rw [lock.1, lock.2.1, lock.2.2, lock.breachedBy, breaks]
    exact ⟨hl, locked, by simp⟩

end Sys2Proof.Machine
end

section
/-! PROOFS. The case commands that reconcile nothing: the refusals of OPEN_CASE (O22), names that fit no case (O23), RELEASE_CASE (O26),
FORCE_SETTLE (O27), READ_CASE and READ_ARRIVALS (O29); then settle requests (O30), and the start and the discard of an operation (O31). -/

namespace Sys2Proof.Machine

/-! ### Naming a case -/

theorem caseNameOf_bytes {c : Nat} (hc : c < 65536) (inst : BitVec 8) (extra : List Byte) :
    caseNameOf (beBytes 2 c ++ inst :: extra) = ⟨c, inst⟩ := by
  have number : fieldNat (beBytes 2 c ++ inst :: extra) 0 2 = c := by
    rw [fieldNat_append_left _ _ (by simp), fieldNat_self hc]
  unfold caseNameOf
  rw [number]
  rfl

theorem readCaseName_bytes {c : Nat} (hc : c < 65536) (inst : BitVec 8) :
    readCaseName (beBytes 2 c ++ [inst]) = some ⟨c, inst⟩ := by
  rw [readCaseName, if_pos (by simp), caseNameOf_bytes hc]

theorem readArrivalsArgs_bytes {c : Nat} (hc : c < 65536) (inst start : BitVec 8) :
    readArrivalsArgs (beBytes 2 c ++ [inst, start]) = some ⟨⟨c, inst⟩, start.toNat⟩ := by
  rw [readArrivalsArgs, if_pos (by simp), caseNameOf_bytes hc]
  rfl

theorem State.withCase_named {s : State} {c : Nat} (hc : c < 2048) (hn : (s.caseAt c).state ≠ .free)
    (run : State → Nat → State × Response) : s.withCase ⟨c, (s.caseAt c).inst⟩ run = run s c :=
  if_pos ((s.named_iff c _).mpr ⟨hc, hn, rfl⟩)

theorem State.withCase_unnamed {s : State} {c : Nat} {inst : BitVec 8}
    (h : 2048 ≤ c ∨ (s.caseAt c).state = .free ∨ (s.caseAt c).inst ≠ inst) (run : State → Nat → State × Response) :
    s.withCase ⟨c, inst⟩ run = (s, .reply .noSuchCase .none) := by
  refine if_neg fun k => ?_
  obtain ⟨h1, h2, h3⟩ := (s.named_iff c inst).mp k
  rcases h with h | h | h
  · exact absurd h1 (Nat.not_lt.mpr h)
  · exact h2 h
  · exact h h3

/-- A command that carries a case name alone, on a case that stands. -/
theorem State.takesFor.answers {s u : State} {code : Byte} {c : Nat} {run : State → Nat → State × Response} {status : Status}
    {result : ReplyResult} (h : s.takesFor code c []) (rule : run s c = (u, .reply status result)) :
    s.execute code readCaseName (fun s n => s.withCase n run) = u.answered code status result := by
  obtain ⟨hc, hn, takes⟩ := h
  exact takes.answers (readCaseName_bytes (by omega) _) ((State.withCase_named hc hn run).trans rule)

theorem exec_cancelCase (s : State) :
    exec .cancelCase s = .next (s.execute 2 readCaseName (fun s n => s.withCase n cancelNamed)) := rfl

theorem exec_releaseCase (s : State) :
    exec .releaseCase s = .next (s.execute 3 readCaseName (fun s n => s.withCase n releaseNamed)) := rfl

theorem exec_forceSettle (s : State) : exec .forceSettle s = .next (s.execute 4 readForceSettle runForceSettle) := rfl

theorem exec_reissue (s : State) :
    exec .reissue s = .next (s.execute 5 readCaseName (fun s n => s.withCase n reissueNamed)) := rfl

theorem exec_readCase (s : State) :
    exec .readCase s = .next (s.execute 6 readCaseName (fun s n => s.withCase n readNamed)) := rfl

theorem exec_readArrivals (s : State) : exec .readArrivals s = .next (s.execute 7 readArrivalsArgs runReadArrivals) := rfl

theorem exec_openCase (s : State) : exec .openCase s = .next (s.execute 1 readOpenCase runOpenCase) := rfl

/-- Settles O23: an unnamed case answers every rule that asks for a named one. -/
theorem wrongNameIsNoSuchCase : Obligations.WrongNameIsNoSuchCase := by
  intro s i code c inst extra hi hc takes unnamed
  have refused (run : State → Nat → State × Response) := State.withCase_unnamed unnamed run
  have byName (none_ : extra.length = 0) (run : State → Nat → State × Response) :
      s.execute code readCaseName (fun s n => s.withCase n run) = s.answered code .noSuchCase .none := by
    obtain rfl := List.length_eq_zero_iff.mp none_
    exact takes.answers (readCaseName_bytes hc inst) (refused run)
  rcases hi with hi | ⟨rfl, rfl, hlen, hyes⟩
  · simp only [List.mem_cons, Prod.mk.injEq, List.not_mem_nil, or_false] at hi
    rcases hi with ⟨rfl, rfl, hl⟩ | ⟨rfl, rfl, hl⟩ | ⟨rfl, rfl, hl⟩ | ⟨rfl, rfl, hl⟩ | ⟨rfl, rfl, hl⟩
    · rw [exec_cancelCase, byName hl]
    · rw [exec_releaseCase, byName hl]
    · rw [exec_reissue, byName hl]
    · rw [exec_readCase, byName hl]
    · obtain ⟨start, rfl⟩ := List.length_eq_one_iff.mp hl
      rw [exec_readArrivals, takes.answers (readArrivalsArgs_bytes hc inst start) (refused _)]
  · have last : (beBytes 2 c ++ inst :: extra).getD 7 0 = extra.getD 4 0 := rfl
    have reads : ∃ b, readForceSettle (beBytes 2 c ++ inst :: extra) = some ⟨⟨c, inst⟩, fieldInt (beBytes 2 c ++ inst :: extra) 3, b⟩ := by
      rw [readForceSettle, if_pos (by simp [hlen]), last, caseNameOf_bytes hc]
      rcases hyes with h | h <;> rw [h]
      · exact ⟨false, rfl⟩
      · exact ⟨true, rfl⟩
    obtain ⟨b, reads⟩ := reads
    rw [exec_forceSettle, takes.answers reads (refused _)]

/-! ### RELEASE_CASE and FORCE_SETTLE -/

/-- A case owes nothing exactly when ISSUE_OWED is clear and no entry of it is owed (R121). -/
theorem CaseRecord.owes_eq_false_iff {r : CaseRecord} : r.owes = false ↔ r.flags.issueOwed = false ∧ r.owed = ⟨[], false⟩ := by
  unfold CaseRecord.owes
  generalize r.owed = owed
  obtain ⟨withdraws, unblock⟩ := owed
  cases withdraws <;> simp

/-- Settles O26: by what the case owes and by its state. -/
theorem releaseCaseFreesTheRecord : Obligations.ReleaseCaseFreesTheRecord := by
  rintro s c r hw takes rfl
  refine ⟨fun ended => ⟨fun h1 h2 => ?_, fun h => ?_⟩, fun h1 h2 => ?_⟩
  · have free : (s.caseAt c).owes = false := CaseRecord.owes_eq_false_iff.mpr ⟨h1, h2⟩
    refine ⟨s.releaseAt c, ?_, fun j hj => s.caseAt_setCase_other hj _, s.caseAt_setCase_same hw.1 c _, rfl⟩
    rw [exec_releaseCase, takes.answers]
    unfold releaseNamed
    dsimp only
    rw [if_pos ended, if_neg (by simp [free])]
  · have owing : (s.caseAt c).owes = true := by
      rw [← Bool.not_eq_false, CaseRecord.owes_eq_false_iff]
      rintro ⟨k1, k2⟩
      rcases h with h | h
      · rw [k1] at h; cases h
      · exact h k2
    rw [exec_releaseCase, takes.answers]
    unfold releaseNamed
    dsimp only
    rw [if_pos ended, if_pos owing]
  · rw [exec_releaseCase, takes.answers]
    unfold releaseNamed
    dsimp only
    rw [if_neg (by rintro (k | k) <;> contradiction)]

/-- A request where none of its case waits joins the tail (R77). -/
theorem State.placeRequest_tail {s : State} {c : Nat} {m : SettleMode} {requeued : Bool} (h : ∀ w ∈ s.settle.fifo, w.caseNo ≠ c) :
    s.placeRequest ⟨c, m⟩ requeued = { s with settle := { s.settle with fifo := s.settle.fifo ++ [⟨c, m⟩] } } := by
  have none_ : s.settle.fifo.find? (fun w => w.caseNo == c) = none := by
    rw [List.find?_eq_none]
    exact fun w hw => by simpa using h w hw
  unfold State.placeRequest
  rw [none_]

/-- A request that meets a waiting one takes its place or is dropped, by the modes (R77). -/
theorem State.placeRequest_meets {s : State} {c : Nat} {m : SettleMode} {requeued : Bool} {w : SettleRequest}
    (h : s.settle.fifo.find? (fun w => w.caseNo == c) = some w) : s.placeRequest ⟨c, m⟩ requeued =
      if replacesWaiting (s.caseAt c) w.mode m requeued then { s with settle := { s.settle with
        fifo := s.settle.fifo.map (fun x => if x.caseNo = c then ⟨c, m⟩ else x) } } else s := by
  unfold State.placeRequest
  rw [h]

/-- Table 4-2 (R77). -/
theorem replacesWaiting_iff {r : CaseRecord} {w m : SettleMode} {requeued : Bool} : replacesWaiting r w m requeued = true ↔
    w.applies r = false ∨ (m = .final ∧ (w = .early ∨ w = .recompute)) ∨
      ((∃ b np, m = .forced b np) ∧ ¬(requeued = true ∧ ∃ b np, w = .forced b np)) := by
  unfold replacesWaiting
  rw [Bool.or_eq_true, Bool.not_eq_true']
  refine or_congr Iff.rfl ?_
  cases m <;> cases w <;> simp

/-- Settles O30: by whether a request waits, and then by whether the new one replaces it (Table 4-2). -/
theorem requestMeetsTheWaitingOne : Obligations.RequestMeetsTheWaitingOne := by
  refine fun s c new requeued => ⟨fun h => State.placeRequest_tail h, fun w hw => ⟨fun h => ?_, fun h1 h2 h3 => ?_⟩⟩
  · rw [State.placeRequest_meets hw, if_pos (replacesWaiting_iff.mpr h)]
  · rw [State.placeRequest_meets hw, if_neg]
    rw [replacesWaiting_iff, h1]
    rintro (k | k | k)
    · cases k
    · exact h2 k
    · exact h3 k

/-- Settles O27: the named case by its state and row, the request by the one that waits. -/
theorem forceSettlePlacesAForcedRequest : Obligations.ForceSettlePlacesAForcedRequest := by
  rintro s c r value basis noPasses ⟨hc, hn, takes⟩ hlo hhi rfl hbasis
  have clamp : clampBalance value = basis := hbasis.symm
  have value_ : fieldInt (beBytes 2 c ++ (s.caseAt c).inst :: (intBytes value ++ [if noPasses then 1 else 0])) 3 = value := by
    have := fieldInt_between (beBytes 2 c ++ [(s.caseAt c).inst]) [if noPasses then 1 else 0] (at' := 3) rfl hlo hhi
    simpa using this
  have yes : yesNo? ((beBytes 2 c ++ (s.caseAt c).inst :: (intBytes value ++ [if noPasses then 1 else 0])).getD 7 0).toNat = some noPasses := by
    cases noPasses <;> rfl
  have reads : readForceSettle (beBytes 2 c ++ (s.caseAt c).inst :: (intBytes value ++ [if noPasses then 1 else 0])) =
      some ⟨⟨c, (s.caseAt c).inst⟩, value, noPasses⟩ := by
    rw [readForceSettle, if_pos (by simp), yes, caseNameOf_bytes (by omega), value_]
    rfl
  have run {u : State} {status : Status} (rule : forceNamed value noPasses s c = (u, .reply status .none)) :
      exec .forceSettle s = .next (u.answered 4 status .none) := by
    rw [exec_forceSettle, takes.answers reads ((State.withCase_named hc hn _).trans rule)]
  refine ⟨fun alive => ⟨fun valid st hst => ?_, fun invalid => run ?_⟩, fun other => run ?_⟩
  · have status : (if clampBalance value = value then Status.ok else .okClamped) = st := by rw [clamp, hst]
    have placed : forceNamed value noPasses s c = (s.placeRequest ⟨c, .forced basis noPasses⟩ false, .reply st .none) := by
      unfold forceNamed
      dsimp only
      rw [if_pos alive, if_pos valid, status, clamp]
    refine ⟨fun none_ => run (placed.trans ?_), fun ⟨w, hw, hwc⟩ => run (placed.trans ?_)⟩
    · rw [State.placeRequest_tail none_]
    · have found : (s.settle.fifo.find? (fun w => w.caseNo == c)).isSome = true := by
        rw [List.find?_isSome]
        exact ⟨w, hw, by simpa using hwc⟩
      obtain ⟨w', hw'⟩ := Option.isSome_iff_exists.mp found
      rw [State.placeRequest_meets hw', if_pos (replacesWaiting_iff.mpr (.inr (.inr ⟨⟨_, _, rfl⟩, fun k => by cases k.1⟩)))]
  · unfold forceNamed
    dsimp only
    rw [if_pos alive, if_neg (by simp [invalid])]
  · unfold forceNamed
    dsimp only
    rw [if_neg]
    rintro (k | k) <;> rw [k] at other <;> simp at other

/-! ### The reads of a case -/

/-- Settles O29: the reads answer with the record and the list; a role is held exactly by the arrival the search finds. -/
theorem caseReadsCarryTheRecord : Obligations.CaseReadsCarryTheRecord := by
  rintro s c r start rfl
  refine ⟨fun takes => ?_, fun ⟨hc, hn, takes⟩ low => ?_, fun ⟨hc, hn, takes⟩ high => ?_⟩
  · rw [exec_readCase, takes.answers rfl]
  · refine ⟨(((s.caseAt c).arrivals.drop start.toNat).take 8).map (fun a => (a, rolesIn (s.caseAt c).arrivals a)), ?_, ?_, ?_, ?_⟩
    · rw [exec_readArrivals, takes.answers (readArrivalsArgs_bytes (by omega) _ start) ((State.withCase_named hc hn _).trans
        (if_neg (show ¬ 31 < start.toNat by omega)))]
    · rw [List.map_map]
      exact List.map_id _
    · intro x hx
      obtain ⟨a, -, rfl⟩ := List.mem_map.mp hx
      rfl
    · intro distinct x hx
      obtain ⟨a, ha, rfl⟩ := List.mem_map.mp hx
      have listed : a ∈ (s.caseAt c).arrivals := List.mem_of_mem_drop (List.mem_of_mem_take ha)
      refine ⟨?_, fun slot => ?_, ?_⟩
      · show holdsRole (anchorOf _) a = true ↔ _
        rw [anchorOf, holdsRole_highest distinct listed]
        simp only [Arrival.isPre_iff]
      · show slot ∈ allSlots.filter (fun s => holdsRole (sourceOf _ s) a) ↔ _
        rw [List.mem_filter, sourceOf, holdsRole_highest distinct listed]
        simp only [mem_allSlots, true_and, Bool.and_eq_true, Arrival.isPre_iff, Arrival.carries_iff, and_assoc, and_imp]
      · show holdsRole (firstAfter _) a = true ↔ _
        rw [firstAfter, holdsRole_lowest distinct listed]
        simp only [Bool.not_eq_true', ← Bool.not_eq_true, Arrival.isPre_iff, ne_eq]
  · rw [exec_readArrivals, takes.answers (readArrivalsArgs_bytes (by omega) _ start) ((State.withCase_named hc hn _).trans (if_pos high))]

/-! ### The refusals of OPEN_CASE -/

theorem slotsDistinct_iff {l : List PassSlot} : slotsDistinct l = true ↔ l.Nodup := by
  induction l with
  | nil => simp [slotsDistinct]
  | cons x l ih => simp [slotsDistinct, ih, List.nodup_cons]

theorem PassRecord.inRange_iff {p : PassRecord} : p.inRange = true ↔
    1 ≤ p.pass.product ∧ p.pass.product ≤ 65535 ∧ p.pass.firstDay ≤ p.pass.lastDay ∧
      (p.pass.cls = .count → p.pass.rides ≤ 1000) ∧ (p.pass.cls = .period → p.pass.rides = 0) := by
  unfold PassRecord.inRange
  cases p.pass.cls <;> simp [and_assoc]

/-- The baseline check of OPEN_CASE (R10). -/
theorem OpenArgs.baselineOk_iff {a : OpenArgs} : a.baselineOk = true ↔ a.inRange := by
  unfold OpenArgs.baselineOk OpenArgs.inRange passSlots
  simp only [Bool.and_eq_true, decide_eq_true_eq, slotsDistinct_iff, List.all_eq_true, PassRecord.inRange_iff, and_assoc]
  exact Iff.rfl

theorem lowestFreeFrom_none {cases : List (Nat × CaseRecord)} {n c : Nat} (h : lowestFreeFrom cases n c = none) :
    ∀ k, c ≤ k → k < c + n → (tableGet CaseRecord.reset cases k).state ≠ .free := by
  induction n generalizing c with
  | zero => intro k h1 h2; omega
  | succ n ih =>
    unfold lowestFreeFrom at h
    split at h
    · cases h
    · next hf =>
      intro k h1 h2
      by_cases e : k = c
      · exact e ▸ hf
      · exact ih h k (by omega) (by omega)

theorem State.lowestFree_none_iff {s : State} : s.lowestFree = none ↔ ∀ d, d < 2048 → (s.caseAt d).state ≠ .free := by
  constructor
  · exact fun h d hd => lowestFreeFrom_none h d (Nat.zero_le d) (by simpa [Config.caseCount] using hd)
  · intro h
    cases hl : s.lowestFree with
    | none => rfl
    | some d =>
      obtain ⟨h1, h2, -⟩ := State.lowestFree_spec hl
      exact absurd h2 (h d h1)

theorem State.lowestFree_eq_some {s : State} {c : Nat} (hc : c < 2048) (hf : (s.caseAt c).state = .free)
    (low : ∀ d, d < c → (s.caseAt d).state ≠ .free) : s.lowestFree = some c := by
  cases hl : s.lowestFree with
  | none => exact absurd hf (State.lowestFree_none_iff.mp hl c hc)
  | some d =>
    obtain ⟨-, h2, h3⟩ := State.lowestFree_spec hl
    have : ¬ d < c := fun k => low d k h2
    have : ¬ c < d := fun k => h3 c k hf
    rw [show d = c by omega]

theorem State.lookup_isSome_iff {s : State} {card : CardId} : (s.lookup card).isSome = true ↔ ∃ e ∈ s.index, e.card = card := by
  simp [State.lookup, List.find?_isSome]

/-- Settles O22: each condition where those before it fail. -/
theorem openCaseIsRefusedInOrder : Obligations.OpenCaseIsRefusedInOrder := by
  intro s args a refused takes reads hrefused
  have by_ {st : Status} (h : s.openRefusal a = some st) : refused st := by
    rw [hrefused, exec_openCase, takes.answers reads]
    unfold runOpenCase
    rw [h]
  refine ⟨fun h1 => by_ (if_pos h1), fun h1 => ⟨fun h2 => by_ ?_, fun h2 => ⟨fun h3 => by_ ?_, fun h3 h3' h3'' =>
    ⟨fun h4 => by_ ?_, fun h4 => ⟨fun h5 => by_ ?_, fun h5 => ⟨fun h6 => by_ ?_, fun h6 => ⟨fun h7 => by_ ?_, fun h7 h8 => by_ ?_⟩⟩⟩⟩⟩⟩⟩
  all_goals
    unfold State.openRefusal
    rw [if_neg (by rw [h1]; decide)]
  · exact if_pos h2
  all_goals rw [if_neg (by rw [h2]; decide)]
  · refine if_pos ?_
    rw [← OpenArgs.baselineOk_iff, Bool.not_eq_true] at h3
    exact h3
  all_goals
    rw [if_neg (by rw [← Bool.not_eq_true, OpenArgs.baselineOk_iff]; tauto)]
  · exact if_pos h4
  all_goals rw [if_neg h4]
  · refine if_pos ?_
    rw [State.lookup_isSome_iff, State.lookup_isSome_iff]
    obtain ⟨e, he, h | h⟩ := h5
    · exact .inl ⟨e, he, h⟩
    · exact .inr ⟨e, he, h⟩
  all_goals
    rw [if_neg (by
      rw [State.lookup_isSome_iff, State.lookup_isSome_iff]
      rintro (⟨e, he, h⟩ | ⟨e, he, h⟩)
      · exact (h5 e he).1 h
      · exact (h5 e he).2 h)]
  · exact if_pos h6
  all_goals rw [if_neg (by simp [h6])]
  · rw [if_pos (by rw [State.lowestFree_none_iff.mpr h7]; rfl)]
  · obtain ⟨d, hd, hf⟩ := h7
    have some_ : ¬ s.lowestFree.isNone = true := fun k => State.lowestFree_none_iff.mp (Option.isNone_iff_eq_none.mp k) d hd hf
    rw [if_neg some_]
    exact if_pos (decide_eq_false (show ¬ s.actions.depth < 256 by omega))

/-! ### The start and the discard of an operation -/

/-- A completion that a test of R79 stops, with no flip waiting, leaves the part as that test does. -/
theorem State.completeOperation_of_quiet {s t : State} {op : Operation} (flight : s.settle.inFlight = some op)
    (pending : s.policy.switchPending = false)
    (done : ({ s with settle := { s.settle with inFlight := none } } : State).complete op = (t, false))
    (cases_ : t.cases = s.cases) (policy : t.policy = s.policy) : s.completeOperation = t := by
  have quiet : s.reachedSince t = none := State.reachedSince_none fun c => .inl (by rw [State.caseAt_congr cases_])
  unfold State.completeOperation
  rw [flight]
  dsimp only
  rw [done]
  show ((t.afterReached s).flipIfPending) = t
  rw [State.afterReached_none quiet]
  exact if_neg (by rw [policy, pending]; decide)

/-- The operator row an operation reads at its start (R76, R78). -/
theorem State.operationOn_row (s : State) (req : SettleRequest) : (s.operationOn req).row = (match req.mode with
    | .early | .final => some (s.activeRow (s.caseAt req.caseNo).operator)
    | .forced _ _ => if (s.caseAt req.caseNo).money = none then some (s.activeRow (s.caseAt req.caseNo).operator) else none
    | .recompute => none) := by
  unfold State.operationOn readsRow
  cases req.mode with
  | early | final | recompute => rfl
  | forced => exact if_congr Option.isNone_iff_eq_none rfl rfl

/-- Settles O31: the start by what is in flight, a discarded completion by which of the three tests fails. -/
theorem operationsStartAndAreDiscarded : Obligations.OperationsStartAndAreDiscarded := by
  have start (s : State) : exec .settleOperationStart s = .next s.startOperation := rfl
  have complete (s : State) : exec .settlementCompletion s = .next s.completeOperation := rfl
  refine ⟨fun s => ⟨?_, fun h => ?_⟩, ?_⟩
  · rintro req rest r hq hi hp rfl
    rw [start]
    unfold State.startOperation
    rw [hq]
    dsimp only
    rw [if_pos (by rw [hi, hp]; rfl)]
    exact congrArg (fun row => Host.Outcome.next ({ s with settle := ⟨rest, some { s.operationOn req with row := row }⟩ } : State))
      (s.operationOn_row req)
  · rw [start]
    unfold State.startOperation
    split
    · rfl
    · next req rest hq =>
      rw [if_neg]
      rw [Bool.and_eq_true, Option.isNone_iff_eq_none, Bool.not_eq_true']
      rintro ⟨k1, k2⟩
      rcases h with h | h | h
      · rw [hq] at h; cases h
      · exact h k1
      · rw [k2] at h; cases h
  · rintro s u op r flight pending rfl rfl
    refine ⟨fun h => ?_, fun hn hi => ⟨fun happ => ?_, fun happ hc => ?_⟩⟩
    · rw [complete, State.completeOperation_of_quiet flight pending (if_pos h) rfl rfl]
    · have stands : ¬ ((s.caseAt op.caseNo).state = .free ∨ (s.caseAt op.caseNo).inst ≠ op.inst) := by tauto
      rw [complete, State.completeOperation_of_quiet flight pending ((if_neg stands).trans (if_pos happ)) rfl rfl]
    · have stands : ¬ ((s.caseAt op.caseNo).state = .free ∨ (s.caseAt op.caseNo).inst ≠ op.inst) := by tauto
      have applies : ¬ op.mode.applies (s.caseAt op.caseNo) = false := by rw [happ]; decide
      rw [complete, State.completeOperation_of_quiet flight pending ((if_neg stands).trans ((if_neg applies).trans (if_pos hc)))
        (by simp) (by simp)]

end Sys2Proof.Machine
end

section
/-! PROOFS. The reconcile step where nothing is outstanding (R126 to R128): what it leaves of the case, the Action Queue and the
notices; and REISSUE, which runs it (R20). -/

namespace Sys2Proof.Machine

/-! ### Deadlines that start -/

theorem CaseRecord.keepCollection_eq (r : CaseRecord) : r.keepCollection = r.collectionDeadline := by
  unfold CaseRecord.keepCollection CaseRecord.collectionDeadline
  cases r.deadline with
  | none => rfl
  | some d =>
    obtain ⟨kind, due⟩ := d
    cases kind <;> rfl

/-- A collection deadline starts unless one is running (R17). -/
theorem CaseRecord.startCollection_eq (r : CaseRecord) (now : Nat) : r.startCollection now = { r with
    deadline := some (r.collectionDeadline.getD
      ⟨.collection, min (now + ((r.timing.map Timing.collectionDays).getD 0) * 86400) 4294967295⟩) } := by
  unfold CaseRecord.startCollection CaseRecord.collectionDeadline
  cases hd : r.deadline with
  | none => rfl
  | some d =>
    obtain ⟨kind, due⟩ := d
    cases kind with
    | collection =>
      have kept (x : Option Deadline) (h : r.deadline = x) : r = { r with deadline := x } := by subst h; rfl
      exact kept _ hd
    | _ => rfl

/-- An event raised is one more notice of its case (R28, R182). -/
theorem State.raise_noticesAfter {s u : State} {c : Nat} {r q : CaseRecord} {details : List EventDetail}
    (hn : u.notices = s.noticesAfter c r details) (ht : u.time = s.time) (hq : u.caseAt c = q) (hi : q.inst = r.inst)
    (hh : q.hostTag = r.hostTag) (d : EventDetail) : (u.raiseEvent c d).notices = s.noticesAfter c r (details ++ [d]) := by
  unfold State.raiseEvent State.noticesAfter
  dsimp only
  rw [hq, hn, hi, hh, ht, List.foldl_append]
  rfl

section Fresh
variable {u : State} (hw : u.tableOk) {c : Nat} (hn : (u.caseAt c).state ≠ .free) (none_ : (u.caseAt c).outstanding = none)
include hw hn none_

omit hw hn in
theorem State.reconcile_of_none (b : Bool) : u.reconcile c b =
    (((u.reconcileIssue c (mayIssue (u.caseAt c).state b)).reconcileCollect c (mayCollect (u.caseAt c).state b)).setOverpaid c, false) := by
  have first : u.reconcileWithdraw c = (u, false) := by
    unfold State.reconcileWithdraw
    rw [if_neg (by simp [CaseRecord.differs, none_])]
  unfold State.reconcile
  dsimp only
  rw [first]

omit none_ in
/-- After a generation is started or none was left, nothing is collected (R127, R128). -/
theorem State.issue_not_collect (desired : (u.caseAt c).desires = true) (allowed : Bool) :
    (u.issue c).reconcileCollect c allowed = u.issue c := by
  have busy : (((u.issue c).caseAt c).outstanding.isNone && !((u.issue c).caseAt c).desires) = false := by
    unfold State.issue
    dsimp only
    split
    · rw [State.caseAt_placeRestore (State.setCase_tableOk hw (hw.live_lt hn) fun k => by simp at k), State.caseAt_setCase_same u hw.1]
      split
      · rw [CaseRecord.startCollection_eq]; rfl
      · rfl
    · show (((u.setCase c _).caseAt c).outstanding.isNone && !((u.setCase c _).caseAt c).desires) = false
      rw [State.caseAt_setCase_same u hw.1]
      rw [Bool.and_eq_false_iff]
      exact .inr (by rw [Bool.not_eq_false']; exact desired)
  unfold State.reconcileCollect
  dsimp only
  rw [if_neg (by simp [busy])]

theorem State.reconcile_issue {b : Bool} (may : mayIssue (u.caseAt c).state b = true) (desired : (u.caseAt c).desires = true) :
    u.reconcile c b = ((u.issue c).setOverpaid c, false) := by
  have second : u.reconcileIssue c (mayIssue (u.caseAt c).state b) = u.issue c := by
    unfold State.reconcileIssue
    dsimp only
    rw [if_pos (by rw [none_, desired, may]; rfl)]
  rw [State.reconcile_of_none none_, second, State.issue_not_collect hw hn desired]

omit hw hn in
theorem State.reconcile_collect {b : Bool} (may : mayCollect (u.caseAt c).state b = true) (desired : (u.caseAt c).desires = false) :
    u.reconcile c b = ((u.enterCollected c).setOverpaid c, false) := by
  have second : u.reconcileIssue c (mayIssue (u.caseAt c).state b) = u := by
    unfold State.reconcileIssue
    dsimp only
    rw [if_neg (by rw [desired, Bool.and_false, Bool.false_and]; decide)]
  have third : u.reconcileCollect c (mayCollect (u.caseAt c).state b) = u.enterCollected c := by
    unfold State.reconcileCollect
    dsimp only
    rw [if_pos (by rw [none_, desired, may]; rfl)]
  rw [State.reconcile_of_none none_, second, third]

omit hw hn in
theorem State.reconcile_stay {b : Bool} (h : ((u.caseAt c).desires = true ∧ mayIssue (u.caseAt c).state b = false) ∨
    ((u.caseAt c).desires = false ∧ mayCollect (u.caseAt c).state b = false)) : u.reconcile c b = (u.setOverpaid c, false) := by
  have second : u.reconcileIssue c (mayIssue (u.caseAt c).state b) = u := by
    unfold State.reconcileIssue
    dsimp only
    refine if_neg ?_
    rcases h with ⟨-, h⟩ | ⟨h, -⟩ <;> rw [h] <;> simp
  have third : u.reconcileCollect c (mayCollect (u.caseAt c).state b) = u := by
    unfold State.reconcileCollect
    dsimp only
    refine if_neg ?_
    rcases h with ⟨h, -⟩ | ⟨-, h⟩ <;> rw [h] <;> simp
  rw [State.reconcile_of_none none_, second, third]

end Fresh

/-! ### The reconcile step with nothing outstanding -/

/-- What `State.reconciledFresh` reads of the part before the step: the case's record, the Action Queue, the notices and the time. -/
structure ReadsAs (s u : State) (c : Nat) (r : CaseRecord) (details : List EventDetail) : Prop where
  record : u.caseAt c = r
  actions : u.actions = s.actions
  notices : u.notices = s.noticesAfter c r details
  time : u.time = s.time

theorem State.caseAt_setOverpaid {s : State} (hw : s.tableOk) (c : Nat) : (s.setOverpaid c).caseAt c =
    { s.caseAt c with overpaid := max ((s.caseAt c).applied - (s.caseAt c).target - (s.caseAt c).unpaid) 0 } :=
  s.caseAt_setCase_same hw.1 c _

/-- The record in which the next generation is outstanding, carrying what is desired (R127). -/
def CaseRecord.issuing (r : CaseRecord) : CaseRecord := { r with
  generation := r.generation + 1, outstanding := some ⟨r.generation + 1, r.desiredCredit, r.desiredGrants⟩
  state := .issued, deadline := r.keepCollection }

theorem CaseRecord.issuing_startCollection (r : CaseRecord) (now : Nat) :
    ({ r.issuing with flags := { r.flags with issueOwed := false } } : CaseRecord).startCollection now = { r.issuing with
      flags := { r.flags with issueOwed := false }
      deadline := some (r.collectionDeadline.getD
        ⟨.collection, min (now + ((r.timing.map Timing.collectionDays).getD 0) * 86400) 4294967295⟩) } := by
  rw [CaseRecord.startCollection_eq]
  have kept : ({ r.issuing with flags := { r.flags with issueOwed := false } } : CaseRecord).collectionDeadline
      = r.collectionDeadline := by
    show (r.keepCollection).filter _ = _
    rw [CaseRecord.keepCollection_eq]
    exact (Option.filter_filter ..).trans (by simp [CaseRecord.collectionDeadline])
  rw [kept]
  rfl

section Issue
variable {u : State} (hw : u.tableOk) {c : Nat} (hn : (u.caseAt c).state ≠ .free) (hg : (u.caseAt c).generation < 8191)
include hw hn hg

omit hw hn in
theorem State.issue_eq : u.issue c = (u.setCase c (u.caseAt c).issuing).placeRestore c
    ⟨(u.caseAt c).generation + 1, (u.caseAt c).desiredCredit, (u.caseAt c).desiredGrants⟩ := if_pos hg

theorem State.caseAt_issue : (u.issue c).caseAt c =
    if u.admitsRestore then { (u.caseAt c).issuing with
      flags := { (u.caseAt c).flags with issueOwed := false }
      deadline := some ((u.caseAt c).collectionDeadline.getD
        (u.daysAhead .collection (((u.caseAt c).timing.map Timing.collectionDays).getD 0))) }
    else { (u.caseAt c).issuing with flags := { (u.caseAt c).flags with issueOwed := true } } := by
  have started : (u.setCase c (u.caseAt c).issuing).tableOk :=
    State.setCase_tableOk hw (hw.live_lt hn) fun k => by simp [CaseRecord.issuing] at k
  rw [State.issue_eq hg, State.caseAt_placeRestore started, State.caseAt_setCase_same u hw.1]
  exact if_congr Iff.rfl (CaseRecord.issuing_startCollection _ _) rfl

omit hn in
theorem State.actions_issue : (u.issue c).actions =
    if u.admitsRestore then { u.actions with untaken := u.actions.untaken ++ [.restore
      ⟨c, (u.caseAt c).inst, (u.caseAt c).generation + 1⟩ (u.caseAt c).newCard (u.caseAt c).desiredCredit (u.caseAt c).desiredGrants] }
    else u.actions := by
  rw [State.issue_eq hg]
  unfold State.placeRestore
  rw [show (u.setCase c (u.caseAt c).issuing).admitsRestore = u.admitsRestore from rfl]
  split
  · unfold State.queueRestore State.refOfCase
    dsimp only
    rw [State.caseAt_setCase_same u hw.1]
    rfl
  · rfl

omit hw hn in
theorem State.notices_issue : (u.issue c).notices = u.notices := by
  rw [State.issue_eq hg]
  unfold State.placeRestore
  split <;> rfl

end Issue

section Step
variable {s u : State} (hw : u.tableOk) {c : Nat} {r : CaseRecord} (hn : r.state ≠ .free) {details : List EventDetail}
  (reads : ReadsAs s u c r details)
include hw hn reads

/-- The part in which a generation was started: its record, and the queue it enters below a depth of 192 (R120, R127, R17). -/
theorem State.issue_starts (hg : r.generation < 8191) :
    ((u.issue c).setOverpaid c).notices = s.noticesAfter c r details ∧
    (s.actions.depth < 192 →
      ((u.issue c).setOverpaid c).caseAt c = { r.issuing with
        flags := { r.flags with issueOwed := false }
        deadline := some (r.collectionDeadline.getD (s.daysAhead .collection ((r.timing.map Timing.collectionDays).getD 0)))
        overpaid := max (r.applied - r.target - r.unpaid) 0 } ∧
      ((u.issue c).setOverpaid c).actions = { s.actions with untaken := s.actions.untaken
        ++ [.restore ⟨c, r.inst, r.generation + 1⟩ r.newCard r.desiredCredit r.desiredGrants] }) ∧
    (192 ≤ s.actions.depth →
      ((u.issue c).setOverpaid c).caseAt c = { r.issuing with
        flags := { r.flags with issueOwed := true }
        deadline := r.collectionDeadline
        overpaid := max (r.applied - r.target - r.unpaid) 0 } ∧
      ((u.issue c).setOverpaid c).actions = s.actions) := by
  have table : (u.issue c).tableOk := (RecordStep.issue hw (reads.record ▸ hn)).table
  obtain ⟨rfl, actions, notices, time⟩ := reads
  have record := State.caseAt_issue hw hn hg
  have queue : ((u.issue c).setOverpaid c).actions = _ := State.actions_issue hw hg
  rw [State.caseAt_setOverpaid table, queue, ← actions]
  refine ⟨(State.notices_issue hg).trans notices, fun room => ?_, fun full => ?_⟩
  · have h : u.admitsRestore = true := u.admitsRestore_iff.mpr room
    rw [if_pos h] at record ⊢
    rw [record]
    unfold State.daysAhead
    rw [← time]
    exact ⟨rfl, rfl⟩
  · have h : ¬u.admitsRestore = true := fun k => absurd (u.admitsRestore_iff.mp k) (Nat.not_lt.mpr full)
    rw [if_neg h] at record ⊢
    rw [record, ← CaseRecord.keepCollection_eq]
    exact ⟨rfl, rfl⟩

/-- With no generation left the case is HELD (R21, R127). -/
theorem State.issue_exhausts (hg : 8191 ≤ r.generation) :
    ((u.issue c).setOverpaid c).caseAt c = { r with
      state := .held, deadline := none, holdReasons := ⟨false, false, false, false, false, true⟩
      overpaid := max (r.applied - r.target - r.unpaid) 0 } ∧
    ((u.issue c).setOverpaid c).actions = s.actions ∧
    ((u.issue c).setOverpaid c).notices = s.noticesAfter c r (details ++ [.held ⟨false, false, false, false, false, true⟩]) := by
  have table : (u.issue c).tableOk := (RecordStep.issue hw (reads.record ▸ hn)).table
  obtain ⟨rfl, actions, notices, time⟩ := reads
  have issue : u.issue c = (u.setCase c { u.caseAt c with
      state := .held, deadline := none, holdReasons := HoldReasons.exhausted }).raiseEvent c (.held HoldReasons.exhausted) :=
    if_neg (Nat.not_lt.mpr hg)
  rw [State.caseAt_setOverpaid table, issue]
  have record := u.caseAt_setCase_same hw.1 c { u.caseAt c with
    state := .held, deadline := none, holdReasons := HoldReasons.exhausted }
  refine ⟨?_, actions, ?_⟩
  · rw [show ((u.setCase c _).raiseEvent c _).caseAt c = _ from record]
    rfl
  · exact State.raise_noticesAfter (u := u.setCase c _) notices time record rfl rfl _

/-- With nothing desired it enters COLLECTED (R22, R128). -/
theorem State.enterCollected_collects :
    ((u.enterCollected c).setOverpaid c).caseAt c = { r with
      state := .collected, deadline := some (s.daysAhead .tailEnd ((r.timing.map Timing.tailDays).getD 0))
      overpaid := max (r.applied - r.target - r.unpaid) 0 } ∧
    ((u.enterCollected c).setOverpaid c).actions = s.actions ∧
    ((u.enterCollected c).setOverpaid c).notices = s.noticesAfter c r (details ++ [.collected r.applied]) := by
  have table : (u.enterCollected c).tableOk := (RecordStep.enterCollected hw (reads.record ▸ hn)).table
  obtain ⟨rfl, actions, notices, time⟩ := reads
  rw [State.caseAt_setOverpaid table]
  have record := u.caseAt_setCase_same hw.1 c { u.caseAt c with
    state := .collected
    deadline := some (deadlineAt .tailEnd (u.time.now + (((u.caseAt c).timing.map Timing.tailDays).getD 0) * Config.day)) }
  refine ⟨?_, actions, ?_⟩
  · rw [show (u.enterCollected c).caseAt c = _ from record]
    unfold State.daysAhead
    rw [← time]
    rfl
  · exact State.raise_noticesAfter (u := u.setCase c _) notices time record rfl rfl _

omit hn in
/-- Where the step may do neither, the case's overpaid amount alone is set (R128). -/
theorem State.overpaid_stays :
    (u.setOverpaid c).caseAt c = { r with overpaid := max (r.applied - r.target - r.unpaid) 0 } ∧
    (u.setOverpaid c).actions = s.actions ∧ (u.setOverpaid c).notices = s.noticesAfter c r details := by
  obtain ⟨rfl, actions, notices, -⟩ := reads
  exact ⟨State.caseAt_setOverpaid hw c, actions, notices⟩

/-- R126 to R128: the reconcile step of a case that has nothing outstanding. -/
theorem State.reconcile_fresh (none_ : r.outstanding = none) (owed : r.flags.issueOwed = false) (b : Bool) :
    s.reconciledFresh (u.reconcile c b).1 c r details (mayIssue r.state b = true) (mayCollect r.state b = true) := by
  have starts := State.issue_starts hw hn reads
  have exhausts := State.issue_exhausts hw hn reads
  have collects := State.enterCollected_collects hw hn reads
  have stays := State.overpaid_stays hw reads
  have live : (u.caseAt c).state ≠ .free := reads.record ▸ hn
  have idle : (u.caseAt c).outstanding = none := reads.record ▸ none_
  have issue (may : mayIssue r.state b = true) (desired : r.desires = true) : (u.reconcile c b).1 = (u.issue c).setOverpaid c := by
    rw [State.reconcile_issue hw live idle (by rw [reads.record]; exact may) (by rw [reads.record]; exact desired)]
  have collect (may : mayCollect r.state b = true) (desired : r.desires = false) :
      (u.reconcile c b).1 = (u.enterCollected c).setOverpaid c := by
    rw [State.reconcile_collect idle (by rw [reads.record]; exact may) (by rw [reads.record]; exact desired)]
  have stay (h : (r.desires = true ∧ ¬mayIssue r.state b = true) ∨ (r.desires = false ∧ ¬mayCollect r.state b = true)) :
      (u.reconcile c b).1 = u.setOverpaid c := by
    rw [State.reconcile_stay idle (by rw [reads.record]; simpa using h)]
  constructor
  case kept =>
    cases desired : r.desires with
    | true =>
      by_cases may : mayIssue r.state b = true
      · rw [issue may desired]
        by_cases left : r.generation < 8191
        · obtain ⟨-, queued, owed⟩ := starts left
          rcases Nat.lt_or_ge s.actions.depth 192 with room | full
          · rw [(queued room).1]; rfl
          · rw [(owed full).1]; rfl
        · rw [(exhausts (Nat.not_lt.mp left)).1]
      · rw [stay (.inl ⟨desired, may⟩), stays.1]
    | false =>
      by_cases may : mayCollect r.state b = true
      · rw [collect may desired, collects.1]
      · rw [stay (.inr ⟨desired, may⟩), stays.1]
  case issued =>
    intro may desired left
    rw [issue may desired]
    obtain ⟨notices, queued, owed⟩ := starts left
    rcases Nat.lt_or_ge s.actions.depth 192 with room | full
    · rw [(queued room).1]; exact ⟨rfl, rfl, rfl, rfl, notices⟩
    · rw [(owed full).1]; exact ⟨rfl, rfl, rfl, rfl, notices⟩
  case queued =>
    intro may desired left room
    obtain ⟨record, actions⟩ := (starts left).2.1 room
    rw [issue may desired, record]
    exact ⟨rfl, rfl, actions⟩
  case owed =>
    intro may desired left full
    obtain ⟨record, actions⟩ := (starts left).2.2 full
    rw [issue may desired, record]
    exact ⟨rfl, rfl, actions⟩
  case exhausted =>
    intro may desired left
    obtain ⟨record, actions, notices⟩ := exhausts left
    rw [issue may desired, record]
    exact ⟨rfl, rfl, none_, owed, rfl, rfl, actions, notices⟩
  case collected =>
    intro may desired
    obtain ⟨record, actions, notices⟩ := collects
    rw [collect may desired, record]
    exact ⟨rfl, rfl, none_, owed, rfl, rfl, actions, notices⟩
  case stays =>
    intro h
    rw [stay h]
    exact stays

end Step

/-- The reconcile step touches its case, the Action Queue and the notices. -/
theorem State.reconcile_frame {u : State} (hw : u.tableOk) {c : Nat} (hn : (u.caseAt c).state ≠ .free) (b : Bool) :
    u.sameCasesBut (u.reconcile c b).1 c ∧ (u.reconcile c b).1 = { u with
      cases := (u.reconcile c b).1.cases, actions := (u.reconcile c b).1.actions, notices := (u.reconcile c b).1.notices } :=
  ⟨(State.reconcile_works hw hn b).1.others, (CaseStep.reconcile u c b).frame⟩

/-- With nothing outstanding the step frees no room, so that no other case is served (R122). -/
theorem State.endEvent_reconcile_of_none {u : State} {c : Nat} (h : (u.caseAt c).outstanding = none) (b : Bool) :
    endEvent (u.reconcile c b) = (u.reconcile c b).1 := by
  rw [State.reconcile_of_none h]
  rfl

theorem State.reconciledFresh.congr {s t : State} {c : Nat} {r : CaseRecord} {details : List EventDetail}
    {issue issue' collect collect' : Prop} (h : s.reconciledFresh t c r details issue collect) (hi : issue ↔ issue')
    (hc : collect ↔ collect') : s.reconciledFresh t c r details issue' collect' :=
  propext hi ▸ propext hc ▸ h

/-- Where the step may issue and may collect, it does not read the state it began in. -/
theorem State.reconciledFresh.of_state {s t : State} {c : Nat} {r : CaseRecord} {details : List EventDetail} {st : CaseState}
    (h : s.reconciledFresh t c { r with state := st } details True True) : s.reconciledFresh t c r details True True where
  kept := h.kept
  issued := h.issued
  queued := h.queued
  owed := h.owed
  exhausted := h.exhausted
  collected := h.collected
  stays k := absurd k (by simp)

/-- A record with nothing outstanding owes no RESTORE (R121). -/
theorem CaseRecord.lifeOk.issueOwed {r : CaseRecord} (h : r.lifeOk) (none_ : r.outstanding = none) : r.flags.issueOwed = false := by
  cases owed : r.flags.issueOwed with
  | false => rfl
  | true => exact absurd (h.owed owed) (by simp [none_])

/-! ### REISSUE -/

/-- Settles O28: a LAPSED case has nothing outstanding, so that the reconcile step is the fresh one. -/
theorem reissueReconcilesALapsedCase : Obligations.ReissueReconcilesALapsedCase := by
  intro s c hw hs takes
  refine ⟨fun lapsed => ?_, fun other => ?_⟩
  · have hc : c < 2048 := takes.1
    have none_ : (s.caseAt c).outstanding = none := by
      cases h : (s.caseAt c).outstanding with
      | none => rfl
      | some o => exact absurd ((hs.at c).outstanding o h).1 (by simp [lapsed])
    have reads : ReadsAs s (s.setCase c { s.caseAt c with state := .issued }) c { s.caseAt c with state := .issued } [] :=
      ⟨State.caseAt_setCase_same s hw.1 c _, rfl, rfl, rfl⟩
    have table : (s.setCase c { s.caseAt c with state := .issued }).tableOk := State.setCase_tableOk hw hc fun k => by simp at k
    have live : ((s.setCase c { s.caseAt c with state := .issued }).caseAt c).state ≠ .free := by rw [reads.record]; simp
    obtain ⟨others, frame⟩ := State.reconcile_frame table live false
    have fresh := State.reconcile_fresh table (by simp) reads none_ ((hs.at c).issueOwed none_) false
    have ended := State.endEvent_reconcile_of_none (b := false) (show _ = none by rw [reads.record]; exact none_)
    have others' : s.sameCasesBut _ c := fun j hj => (others j hj).trans (State.caseAt_setCase_other s hj _)
    refine ⟨_, _, ?_, State.reachedTaken_afterReached (RecordStep.reconcile table live false).table (by rw [frame]; rfl) others',
      others', frame, State.reconciledFresh.of_state (st := .issued) (fresh.congr (by simp [mayIssue]) (by simp [mayCollect]))⟩
    rw [exec_reissue, takes.answers (u := (s.reissueAt c)) (by unfold reissueNamed; exact if_pos lapsed)]
    unfold State.reissueAt
    rw [ended]
  · rw [exec_reissue, takes.answers (by unfold reissueNamed; exact if_neg other)]


end Sys2Proof.Machine
end

section
/-! PROOFS. Where a RESTORE stands when it is withdrawn (R123), and the expiry of each deadline (R8, R13, R18, R23). -/

namespace Sys2Proof.Machine

/-! ### Generations owed a WITHDRAW -/

theorem mem_insertGeneration {g x : Nat} {l : List Nat} : x ∈ insertGeneration l g ↔ x = g ∨ x ∈ l := by
  induction l with
  | nil => simp [insertGeneration]
  | cons y ys ih =>
    unfold insertGeneration
    split
    · simp
    · split
      · next h => subst h; simp
      · rw [List.mem_cons, ih, List.mem_cons]
        tauto

theorem pairwise_insertGeneration {g : Nat} {l : List Nat} (h : l.Pairwise (· < ·)) :
    (insertGeneration l g).Pairwise (· < ·) := by
  induction l with
  | nil => simp [insertGeneration]
  | cons y ys ih =>
    obtain ⟨above, rest⟩ := List.pairwise_cons.mp h
    unfold insertGeneration
    split
    · next lt =>
      refine List.pairwise_cons.mpr ⟨fun x hx => ?_, h⟩
      rcases List.mem_cons.mp hx with rfl | hx
      · exact lt
      · exact lt.trans (above x hx)
    · split
      · exact h
      · next ge ne =>
        refine List.pairwise_cons.mpr ⟨fun x hx => ?_, ih rest⟩
        rcases mem_insertGeneration.mp hx with rfl | hx
        · omega
        · exact above x hx

/-! ### The three ways of a withdrawal -/

section Withdraw
variable {s : State} {c : Nat}

theorem State.withdraw_none (h : (s.caseAt c).outstanding = none) :
    s.withdraw c = (s.setCase c (s.caseAt c).clearOutstanding, false) := by
  unfold State.withdraw
  dsimp only
  rw [h]

variable {o : Outstanding} (h : (s.caseAt c).outstanding = some o)
include h

theorem State.withdraw_owed (owed : (s.caseAt c).flags.issueOwed = true) :
    s.withdraw c = (s.setCase c (s.caseAt c).clearOutstanding, false) := by
  unfold State.withdraw
  dsimp only
  rw [h]
  exact if_pos owed

theorem State.withdraw_untaken (owed : (s.caseAt c).flags.issueOwed = false)
    (untaken : s.actions.untaken.any (ActionEntry.isRestoreOf ⟨c, (s.caseAt c).inst, o.generation⟩) = true) :
    s.withdraw c = ({ s.setCase c (s.caseAt c).clearOutstanding with actions := { s.actions with
      untaken := s.actions.untaken.filter (fun e => !e.isRestoreOf ⟨c, (s.caseAt c).inst, o.generation⟩) } }, true) := by
  unfold State.withdraw
  dsimp only
  rw [h]
  exact (if_neg (by simp [owed])).trans (if_pos untaken)

theorem State.withdraw_sent (owed : (s.caseAt c).flags.issueOwed = false)
    (untaken : s.actions.untaken.any (ActionEntry.isRestoreOf ⟨c, (s.caseAt c).inst, o.generation⟩) = false) :
    s.withdraw c = ((s.setCase c (s.caseAt c).clearOutstanding).placeWithdraw c o.generation, false) := by
  unfold State.withdraw
  dsimp only
  rw [h]
  exact (if_neg (by simp [owed])).trans (if_neg (by unfold State.refOfCase; simp [untaken]))

end Withdraw

theorem State.placeWithdraw_queued {s : State} {c g : Nat} (room : s.actions.depth < 256) : s.placeWithdraw c g =
    s.enqueue (.withdraw ⟨c, (s.caseAt c).inst, g⟩ (s.caseAt c).newCard) := if_pos (s.admitsOther_iff.mpr room)

theorem State.placeWithdraw_owed {s : State} {c g : Nat} (full : 256 ≤ s.actions.depth) : s.placeWithdraw c g =
    s.setCase c { s.caseAt c with owed := { (s.caseAt c).owed with
      withdraws := insertGeneration (s.caseAt c).owed.withdraws g } } :=
  if_neg fun k => absurd (s.admitsOther_iff.mp k) (Nat.not_lt.mpr full)

theorem State.placeUnblock_queued {s : State} {c : Nat} (room : s.actions.depth < 256) : s.placeUnblock c =
    s.enqueue (.unblock ⟨c, (s.caseAt c).inst, 0⟩ (s.caseAt c).oldCard) := if_pos (s.admitsOther_iff.mpr room)

theorem State.placeUnblock_owed {s : State} {c : Nat} (full : 256 ≤ s.actions.depth) : s.placeUnblock c =
    s.setCase c { s.caseAt c with owed := { (s.caseAt c).owed with unblock := true } } :=
  if_neg fun k => absurd (s.admitsOther_iff.mp k) (Nat.not_lt.mpr full)

/-- Settles O25: by where the RESTORE stands: owed, untaken, or taken. -/
theorem restoreIsWithdrawnByWhereItStands : Obligations.RestoreIsWithdrawnByWhereItStands := by
  rintro s t c r o freed hw rfl hn outstanding withdrawn
  obtain ⟨others, frame, record⟩ := State.withdraw_frame hw c
  have cleared := State.caseAt_setCase_same s hw.1 c (s.caseAt c).clearOutstanding
  refine ⟨?_, ?_, ?_, fun owed => ?_, fun owed => ⟨fun ⟨e, he, hr⟩ => ?_, fun absent => ?_⟩⟩
  · rw [show t = _ from congrArg Prod.fst withdrawn]; exact others
  · rw [show t = _ from congrArg Prod.fst withdrawn]; exact frame
  · rw [show t = _ from congrArg Prod.fst withdrawn]; exact record
  · rw [State.withdraw_owed outstanding owed] at withdrawn
    obtain ⟨rfl, rfl⟩ := Prod.ext_iff.mp withdrawn
    exact ⟨rfl, by rw [cleared]; rfl, rfl⟩
  · rw [State.withdraw_untaken outstanding owed (List.any_eq_true.mpr ⟨e, he, hr⟩)] at withdrawn
    obtain ⟨rfl, rfl⟩ := Prod.ext_iff.mp withdrawn
    exact ⟨rfl, (congrArg CaseRecord.owed cleared).trans rfl, rfl⟩
  · rw [State.withdraw_sent outstanding owed (List.any_eq_false.mpr fun e he => by simp [absent e he])] at withdrawn
    obtain ⟨rfl, rfl⟩ := Prod.ext_iff.mp withdrawn
    refine ⟨rfl, fun room => ?_, fun full => ?_⟩
    · dsimp only
      rw [State.placeWithdraw_queued (s := s.setCase c _) room, cleared]
      exact ⟨(congrArg CaseRecord.owed cleared).trans rfl, rfl⟩
    · dsimp only
      rw [State.placeWithdraw_owed (s := s.setCase c _) full,
        State.caseAt_setCase_same _ (State.setCase_wf s hw.1 c _), cleared]
      exact ⟨rfl, rfl, fun g => mem_insertGeneration, pairwise_insertGeneration⟩

/-! ### The case that expires first -/

/-- The lowest-numbered case whose deadline part time has reached is the next to expire (R8, assumption 6). -/
theorem State.nextDue_eq {s : State} (hw : s.tableOk) {c : Nat} {d : Deadline} (hd : (s.caseAt c).deadline = some d)
    (due : d.due ≤ s.time.now) (first : ∀ j, j < c → ∀ x, (s.caseAt j).deadline = some x → s.time.now < x.due) :
    s.nextDue = some (c, s.caseAt c) := by
  have listed : (c, s.caseAt c) ∈ s.cases := State.listed_of_ne_free s c fun hf => by
    rw [hw.free_eq hf] at hd; simp [CaseRecord.freeWith] at hd
  have isDue : (s.caseAt c).isDue s.time.now = true := by simpa [CaseRecord.isDue, hd] using due
  unfold State.nextDue
  cases found : s.cases.find? (fun e => e.2.isDue s.time.now) with
  | none => exact absurd isDue (by simpa using List.find?_eq_none.mp found _ listed)
  | some e =>
    obtain ⟨j, r⟩ := e
    have record : s.caseAt j = r := tableGet_of_mem hw.1.1 (List.mem_of_find?_eq_some found)
    have notBelow : ¬j < c := fun below => by
      have hj := List.find?_some found
      simp only [CaseRecord.isDue] at hj
      cases hx : r.deadline with
      | none => simp [hx] at hj
      | some x => exact absurd (first j below x (record ▸ hx)) (by simpa [hx] using hj)
    obtain ⟨-, before, after, split, skipped⟩ := List.find?_eq_some_iff_append.mp found
    have sorted := hw.1.1
    rw [split] at sorted listed
    rcases List.mem_append.mp listed with h | h
    · exact absurd isDue (by simpa using skipped _ h)
    · rcases List.mem_cons.mp h with h | h
      · rw [h]
      · have := (List.pairwise_cons.mp (List.pairwise_append.mp sorted).2.1).1 _ h
        exact absurd this notBelow

theorem State.dueOf_eq {s : State} {c : Nat} {r : CaseRecord} {d : Deadline} (next : s.nextDue = some (c, r))
    (hd : r.deadline = some d) (kind : DeadlineKind) : s.dueOf kind = if d.kind = kind then some (c, r) else none := by
  unfold State.dueOf
  rw [next]
  dsimp only
  rw [hd]
  simp

/-! ### What each expiry leaves -/

/-- A collection deadline expires: the RESTORE is withdrawn and the case is LAPSED (R18), said of a withdrawal that frees no room,
or room no case waits for. -/
theorem State.collectionExpires_lapses {s w : State} (hw : s.tableOk) {c : Nat} (hn : (s.caseAt c).state ≠ .free) {freed : Bool}
    (withdrawn : (s.setCase c (s.caseAt c).expired).withdraw c = (w, freed))
    (idle : freed = false ∨ ∀ j, (w.caseAt j).owes = false) :
    w.sameCasesBut (s.collectionExpires c (s.caseAt c)) c ∧
    (s.collectionExpires c (s.caseAt c)).caseAt c = { w.caseAt c with state := .lapsed } ∧
    s.collectionExpires c (s.caseAt c) = { w with
      cases := (s.collectionExpires c (s.caseAt c)).cases
      notices := s.noticesAfter c (s.caseAt c) [.lapsed (s.caseAt c).lapsedGeneration] } := by
  have first : RecordStep s (s.setCase c (s.caseAt c).expired) := .setCase hw hn ⟨Iff.rfl, rfl, rfl, rfl, rfl⟩
  have table : w.tableOk := by
    have h := (RecordStep.withdraw first.table (first.live hn)).table
    rwa [withdrawn] at h
  obtain ⟨-, frame, record⟩ := State.withdraw_frame first.table c
  rw [withdrawn, State.caseAt_setCase_same s hw.1] at record
  rw [withdrawn] at frame
  have lapsed := State.caseAt_setCase_same w table.1 c { w.caseAt c with state := .lapsed }
  have others : w.sameCasesBut (w.setCase c { w.caseAt c with state := .lapsed }) c := fun j hj => State.caseAt_setCase_other w hj _
  have expires : s.collectionExpires c (s.caseAt c) =
      (w.setCase c { w.caseAt c with state := .lapsed }).raiseEvent c (.lapsed (s.caseAt c).lapsedGeneration) := by
    unfold State.collectionExpires
    rw [withdrawn]
    unfold endEvent
    dsimp only
    split
    · next h =>
      refine State.serveCases_idle (fun j => ?_) _
      have none_ := (idle.resolve_left (by simp [h])) j
      by_cases hj : j = c
      · subst hj
        exact (congrArg CaseRecord.owes lapsed).trans none_
      · exact (congrArg CaseRecord.owes (others j hj)).trans none_
    · rfl
  rw [expires]
  refine ⟨others, lapsed, ?_⟩
  have notices : ((w.setCase c { w.caseAt c with state := .lapsed }).raiseEvent c (.lapsed (s.caseAt c).lapsedGeneration)).notices
      = s.noticesAfter c (s.caseAt c) ([] ++ [.lapsed (s.caseAt c).lapsedGeneration]) :=
    State.raise_noticesAfter (s := s) (u := w.setCase c { w.caseAt c with state := .lapsed }) (r := s.caseAt c) (details := [])
      (show w.notices = s.notices by rw [show w = _ from frame]; rfl) (show w.time = s.time by rw [show w = _ from frame]; rfl)
      lapsed (by rw [show w.caseAt c = _ from record]; rfl) (by rw [show w.caseAt c = _ from record]; rfl) _
  exact notices ▸ rfl

theorem CaseRecord.clearOutstanding_of_none {r : CaseRecord} (h : r.outstanding = none) (k : r.flags.issueOwed = false) :
    r.clearOutstanding = r := by
  have action (x : Option Outstanding) (h : r.outstanding = x) : ({ r with outstanding := x } : CaseRecord) = r := by subst h; rfl
  have flag (x : Bool) (h : r.flags.issueOwed = x) : ({ r.flags with issueOwed := x } : CaseFlags) = r.flags := by subst h; rfl
  unfold CaseRecord.clearOutstanding
  rw [flag _ k]
  exact action _ h

theorem State.tailExpires_closes {s : State} (hw : s.tableOk) (c : Nat) :
    s.sameCasesBut (s.tailExpires c (s.caseAt c)) c ∧
    (s.tailExpires c (s.caseAt c)).caseAt c = { s.caseAt c with state := .closed, deadline := none } ∧
    s.tailExpires c (s.caseAt c) = { s with
      cases := (s.tailExpires c (s.caseAt c)).cases
      notices := s.noticesAfter c (s.caseAt c) [.closed (s.caseAt c).overpaid] } := by
  have closed := State.caseAt_setCase_same s hw.1 c { (s.caseAt c).expired with state := .closed }
  refine ⟨fun j hj => State.caseAt_setCase_other s hj _, closed, ?_⟩
  have notices : (s.tailExpires c (s.caseAt c)).notices = s.noticesAfter c (s.caseAt c) ([] ++ [.closed (s.caseAt c).overpaid]) :=
    State.raise_noticesAfter (u := s.setCase c _) rfl rfl closed rfl rfl _
  exact notices ▸ rfl

/-- After an event that leaves the case without a deadline, and no other case another one, nothing expires. -/
theorem State.afterReached_of_deadlines {s t : State} {c : Nat} (none_ : (t.caseAt c).deadline = none)
    (others : ∀ j, j ≠ c → (t.caseAt j).deadline = (s.caseAt j).deadline) : t.afterReached s = t :=
  State.afterReached_none (State.reachedSince_none fun j => by
    by_cases hj : j = c
    · subst hj; exact .inr (CaseRecord.isDue_none none_ _)
    · exact .inl (others j hj))

/-- Settles O39: no other expiry is due when the next one is of another kind. -/
theorem deadlinesExpire : Obligations.DeadlinesExpire := by
  rintro s c r d hw hs rfl hd due first
  have next := State.nextDue_eq hw hd due first
  have isOf (kind : DeadlineKind) (h : d.kind = kind) : s.dueOf kind = some (c, s.caseAt c) := by
    rw [State.dueOf_eq next hd, if_pos h]
  have notOf (kind : DeadlineKind) (h : d.kind ≠ kind) : s.dueOf kind = none := by
    rw [State.dueOf_eq next hd, if_neg h]
  have noWindowEnd (h : d.kind ≠ .windowEnd) : exec .windowEndExpiry s = .next s := by
    show execWindowEndExpiry s = _
    rw [execWindowEndExpiry, notOf _ h]
  have noCollection (h : d.kind ≠ .collection) : exec .collectionDeadlineExpiry s = .next s := by
    show execCollectionDeadlineExpiry s = _
    rw [execCollectionDeadlineExpiry, notOf _ h]
  have noTailEnd (h : d.kind ≠ .tailEnd) : exec .tailEndExpiry s = .next s := by
    show execTailEndExpiry s = _
    rw [execTailEndExpiry, notOf _ h]
  have live : (s.caseAt c).state ≠ .free := fun hf => by
    rw [hw.free_eq hf] at hd; simp [CaseRecord.freeWith] at hd
  have expired := State.caseAt_setCase_same s hw.1 c (s.caseAt c).expired
  have table : (s.setCase c (s.caseAt c).expired).tableOk :=
    (RecordStep.setCase hw live (r := (s.caseAt c).expired) ⟨Iff.rfl, rfl, rfl, rfl, rfl⟩).table
  refine ⟨fun kind => ⟨?_, noCollection (by simp [kind]), noTailEnd (by simp [kind])⟩,
    fun kind => ?_, fun kind => ⟨noWindowEnd (by simp [kind]), noCollection (by simp [kind]), s.tailExpires c (s.caseAt c), ?_,
      State.tailExpires_closes hw c⟩⟩
  · show execWindowEndExpiry s = _
    rw [execWindowEndExpiry, isOf _ kind]
    rfl
  · have lapses {w : State} {freed : Bool} (withdrawn : (s.setCase c (s.caseAt c).expired).withdraw c = (w, freed))
        (idle : freed = false ∨ ∀ j, (w.caseAt j).owes = false) :
        exec .collectionDeadlineExpiry s = .next (s.collectionExpires c (s.caseAt c)) := by
      show execCollectionDeadlineExpiry s = _
      rw [execCollectionDeadlineExpiry, isOf _ kind]
      obtain ⟨others, lapsed, -⟩ := State.collectionExpires_lapses hw live withdrawn idle
      obtain ⟨before, -, record⟩ := State.withdraw_frame table c
      rw [withdrawn, expired] at record
      rw [withdrawn] at before
      dsimp only
      rw [State.afterReached_of_deadlines (c := c) (by rw [lapsed, record]; rfl) fun j hj => by
        rw [others j hj, before j hj, State.caseAt_setCase_other s hj]]
    refine ⟨noWindowEnd (by simp [kind]), noTailEnd (by simp [kind]), fun none_ => ?_, fun o u freed outstanding withdrawn idle => ?_⟩
    · have withdrawn := State.withdraw_none (s := s.setCase c (s.caseAt c).expired) (c := c) (by rw [expired]; exact none_)
      obtain ⟨others, lapsed, frame⟩ := State.collectionExpires_lapses hw live withdrawn (.inl rfl)
      refine ⟨_, lapses withdrawn (.inl rfl), fun j hj => ?_, ?_, ?_⟩
      · rw [others j hj, State.caseAt_setCase_other _ hj, State.caseAt_setCase_other s hj]
      · rw [lapsed, State.caseAt_setCase_same _ table.1, expired]
        rw [CaseRecord.clearOutstanding_of_none (r := (s.caseAt c).expired) none_ ((hs.at c).issueOwed none_)]
        rfl
      · rw [CaseRecord.lapsedGeneration, none_] at frame
        exact frame
    · have lapsed := State.collectionExpires_lapses hw live withdrawn.symm idle
      rw [CaseRecord.lapsedGeneration, outstanding] at lapsed
      exact ⟨_, lapses withdrawn.symm idle, lapsed⟩
  · show execTailEndExpiry s = _
    rw [execTailEndExpiry, isOf _ kind]

end Sys2Proof.Machine
end

section
/-! PROOFS. The service of owing cases (R122): what one case's service admits, and the service where one case alone owes. -/

namespace Sys2Proof.Machine

/-! ### The owed entries of one case -/

/-- `t` is `s` after some entries of case `c` joined the tail of the Action Queue, and the case owes `owed`. -/
structure Admitted (c : Nat) (s t : State) (entries : List ActionEntry) (owed : Owed) : Prop where
  table : t.tableOk
  others : s.sameCasesBut t c
  record : t.caseAt c = { s.caseAt c with owed := owed }
  frame : t = { s with cases := t.cases, actions := { s.actions with untaken := s.actions.untaken ++ entries } }

theorem Admitted.refl {c : Nat} {s : State} (hw : s.tableOk) {owed : Owed} (h : (s.caseAt c).owed = owed) : Admitted c s s [] owed :=
  ⟨hw, fun _ _ => rfl, by subst h; rfl, by simp⟩

theorem Admitted.trans {c : Nat} {s t u : State} {es fs : List ActionEntry} {o p : Owed} (h : Admitted c s t es o)
    (k : Admitted c t u fs p) : Admitted c s u (es ++ fs) p where
  table := k.table
  others j hj := (k.others j hj).trans (h.others j hj)
  record := by rw [k.record, h.record]
  frame := by rw [k.frame, h.frame]; simp

theorem Admitted.depth {c : Nat} {s t : State} {es : List ActionEntry} {o : Owed} (h : Admitted c s t es o) :
    t.actions.depth = s.actions.depth + es.length := by
  rw [h.frame]
  simp [ActionUnit.depth, Nat.add_assoc]

section Serve
variable {c : Nat}

/-- One entry joins the tail, and the case owes it no more. -/
theorem Admitted.one {s : State} (hw : s.tableOk) (hn : (s.caseAt c).state ≠ .free) (e : ActionEntry) (owed : Owed) :
    Admitted c s ((s.enqueue e).setCase c { s.caseAt c with owed := owed }) [e] owed where
  table := State.setCase_tableOk (s := s.enqueue e) hw (hw.live_lt hn) fun k => absurd k hn
  others _ hj := State.caseAt_setCase_other (s.enqueue e) hj _
  record := State.caseAt_setCase_same (s.enqueue e) hw.1 c _
  frame := rfl

/-- R122 step 2: the owed WITHDRAWs are admitted in their order, as far as the queue has room. -/
theorem State.serveWithdraws_admits : ∀ (gs : List Nat) {s : State}, s.tableOk → (s.caseAt c).state ≠ .free →
    (s.caseAt c).owed.withdraws = gs → Admitted c s (s.serveWithdraws c gs)
      ((gs.take (256 - s.actions.depth)).map fun g => .withdraw ⟨c, (s.caseAt c).inst, g⟩ (s.caseAt c).newCard)
      ⟨gs.drop (256 - s.actions.depth), (s.caseAt c).owed.unblock⟩ := by
  intro gs
  induction gs with
  | nil =>
    intro s hw _ h
    have owed : (s.caseAt c).owed = ⟨[], (s.caseAt c).owed.unblock⟩ := by rw [← h]
    show Admitted c s s _ _
    simpa using Admitted.refl hw owed
  | cons g gs ih =>
    intro s hw hn h
    rcases Nat.lt_or_ge s.actions.depth 256 with room | full
    · have served : s.serveWithdraws c (g :: gs) = State.serveWithdraws _ c gs := if_pos (s.admitsOther_iff.mpr room)
      have first := Admitted.one hw hn (.withdraw ⟨c, (s.caseAt c).inst, g⟩ (s.caseAt c).newCard) ⟨gs, (s.caseAt c).owed.unblock⟩
      have rest := first.trans (ih first.table (by rw [first.record]; exact hn) (by rw [first.record]))
      have one : 256 - s.actions.depth = (256 - (s.actions.depth + 1)) + 1 := by omega
      rw [served, one]
      rw [first.depth, first.record] at rest
      exact rest
    · have served : s.serveWithdraws c (g :: gs) = s :=
        if_neg fun k => absurd (s.admitsOther_iff.mp k) (Nat.not_lt.mpr full)
      have none_ : 256 - s.actions.depth = 0 := by omega
      have owed : (s.caseAt c).owed = ⟨g :: gs, (s.caseAt c).owed.unblock⟩ := by rw [← h]
      rw [served, none_]
      exact Admitted.refl hw owed

/-- R122 step 2: the owed entries are admitted, WITHDRAWs first, as far as the queue has room. -/
theorem State.serveOther_admits {s : State} (hw : s.tableOk) (hn : (s.caseAt c).state ≠ .free) {entries : List ActionEntry}
    {room : Nat} (hr : room = 256 - s.actions.depth)
    (he : entries = ((s.caseAt c).owed.withdraws.map fun g => .withdraw ⟨c, (s.caseAt c).inst, g⟩ (s.caseAt c).newCard)
      ++ (if (s.caseAt c).owed.unblock then [.unblock ⟨c, (s.caseAt c).inst, 0⟩ (s.caseAt c).oldCard] else [])) :
    Admitted c s ((s.serveWithdraws c (s.caseAt c).owed.withdraws).serveUnblock c) (entries.take room)
      ⟨(s.caseAt c).owed.withdraws.drop room, (s.caseAt c).owed.unblock && decide (room ≤ (s.caseAt c).owed.withdraws.length)⟩ := by
  have first := State.serveWithdraws_admits _ hw hn rfl
  rw [← hr] at first
  have depth := first.depth
  rw [List.length_map, List.length_take] at depth
  generalize (s.serveWithdraws c (s.caseAt c).owed.withdraws) = t at first depth ⊢
  generalize hws : (s.caseAt c).owed.withdraws = ws at *
  have idle (h : (ws.drop room).isEmpty = false ∨ (s.caseAt c).owed.unblock = false ∨ 256 ≤ t.actions.depth) : t.serveUnblock c = t := by
    refine if_neg fun k => ?_
    rw [first.record, Bool.and_eq_true, Bool.and_eq_true, State.admitsOther_iff] at k
    obtain ⟨⟨empty, unblock⟩, space⟩ := k
    rcases h with h | h | h
    · exact absurd empty (by simp [h])
    · exact absurd unblock (by simp [h])
    · omega
  rcases Nat.lt_or_ge ws.length room with spare | fits
  · have all : ws.drop room = [] := List.drop_eq_nil_of_le (by omega)
    have whole : ws.take room = ws := List.take_of_length_le (by omega)
    rw [all, whole] at first
    rw [all, he]
    cases hu : (s.caseAt c).owed.unblock with
    | false =>
      rw [idle (.inr (.inl hu)), List.take_of_length_le (by simp; omega)]
      simpa [hu] using first
    | true =>
      have room' : t.actions.depth < 256 := by omega
      have served : t.serveUnblock c = (t.enqueue (.unblock (t.refOfCase c 0) (t.caseAt c).oldCard)).setCase c
          { t.caseAt c with owed := { (t.caseAt c).owed with unblock := false } } :=
        if_pos (by rw [first.record, hu, t.admitsOther_iff.mpr room']; rfl)
      have second := Admitted.one first.table (by rw [first.record]; exact hn)
        (.unblock (t.refOfCase c 0) (t.caseAt c).oldCard) { (t.caseAt c).owed with unblock := false }
      rw [← served] at second
      rw [List.take_of_length_le (by simp; omega)]
      have := first.trans second
      rw [first.record] at this
      unfold State.refOfCase at this
      rw [first.record] at this
      simpa [Nat.not_le.mpr spare] using this
  · rw [idle (.inr (.inr (by omega))), he, List.take_append_of_le_length (by simpa using fits), ← List.map_take]
    simpa [fits] using first

/-- A case's overpaid amount set anew, after its entries were admitted. -/
theorem Admitted.setOverpaid {s t : State} {es : List ActionEntry} {o : Owed} (h : Admitted c s t es o) :
    s.sameCasesBut (t.setOverpaid c) c ∧
    (t.setOverpaid c).caseAt c = { s.caseAt c with
      owed := o, overpaid := max ((s.caseAt c).applied - (s.caseAt c).target - (s.caseAt c).unpaid) 0 } ∧
    t.setOverpaid c = { s with
      cases := (t.setOverpaid c).cases, actions := { s.actions with untaken := s.actions.untaken ++ es } } := by
  refine ⟨fun j hj => (State.caseAt_setCase_other t hj _).trans (h.others j hj), ?_, ?_⟩
  · rw [State.caseAt_setOverpaid h.table, h.record]
    rfl
  · have frame := h.frame
    unfold State.setOverpaid State.setCase
    rw [frame]

/-- The reconcile step of a case whose outstanding action carries what is desired sets its overpaid amount alone (R127, R128). -/
theorem State.reconcile_of_carries {s : State} {o : Outstanding} (h : (s.caseAt c).outstanding = some o)
    (credit : o.credit = (s.caseAt c).desiredCredit) (grants : o.grants = (s.caseAt c).desiredGrants) (b : Bool) :
    s.reconcile c b = (s.setOverpaid c, false) := by
  have first : s.reconcileWithdraw c = (s, false) := by
    unfold State.reconcileWithdraw
    rw [if_neg (by simp [CaseRecord.differs, h, credit, grants])]
  have second (allowed : Bool) : s.reconcileIssue c allowed = s := by
    unfold State.reconcileIssue
    dsimp only
    rw [if_neg (by simp [h])]
  have third (allowed : Bool) : s.reconcileCollect c allowed = s := by
    unfold State.reconcileCollect
    dsimp only
    rw [if_neg (by simp [h])]
  unfold State.reconcile
  dsimp only
  rw [first, second, third]

/-- The service of a case that is CLOSED or CANCELLED, or whose outstanding action carries what is desired and is not owed or finds
no room: its WITHDRAWs and its UNBLOCK are admitted. -/
theorem State.serveCase_other {s : State} (hw : s.tableOk) (hn : (s.caseAt c).state ≠ .free) {entries : List ActionEntry}
    {room : Nat} {owed : Owed} (hr : room = 256 - s.actions.depth)
    (he : entries = ((s.caseAt c).owed.withdraws.map fun g => .withdraw ⟨c, (s.caseAt c).inst, g⟩ (s.caseAt c).newCard)
      ++ (if (s.caseAt c).owed.unblock then [.unblock ⟨c, (s.caseAt c).inst, 0⟩ (s.caseAt c).oldCard] else []))
    (ho : owed = ⟨(s.caseAt c).owed.withdraws.drop room,
      (s.caseAt c).owed.unblock && decide (room ≤ (s.caseAt c).owed.withdraws.length)⟩)
    (alone : ((s.caseAt c).outstanding = none ∧ ((s.caseAt c).state = .closed ∨ (s.caseAt c).state = .cancelled)) ∨
      ∃ o, (s.caseAt c).outstanding = some o ∧ o.credit = (s.caseAt c).desiredCredit ∧ o.grants = (s.caseAt c).desiredGrants ∧
        192 ≤ s.actions.depth + (entries.take room).length) :
    s.sameCasesBut (s.serveCase c) c ∧
    (s.serveCase c).caseAt c = { s.caseAt c with
      owed := owed, overpaid := max ((s.caseAt c).applied - (s.caseAt c).target - (s.caseAt c).unpaid) 0 } ∧
    s.serveCase c = { s with
      cases := (s.serveCase c).cases, actions := { s.actions with untaken := s.actions.untaken ++ entries.take room } } := by
  have other := State.serveOther_admits hw hn hr he
  rw [← ho] at other
  suffices served : s.serveCase c = ((s.serveWithdraws c (s.caseAt c).owed.withdraws).serveUnblock c).setOverpaid c by
    rw [served]
    exact other.setOverpaid
  unfold State.serveCase
  generalize (s.serveWithdraws c (s.caseAt c).owed.withdraws).serveUnblock c = t at other ⊢
  rcases alone with ⟨none_, ended⟩ | ⟨o, outstanding, credit, grants, full⟩
  · have idle : t.serveRestore c = t := by
      unfold State.serveRestore
      dsimp only
      rw [other.record, none_]
    rw [idle, State.reconcile_stay (by rw [other.record]; exact none_)]
    rw [other.record]
    cases desired : CaseRecord.desires _ with
    | true => rcases ended with h | h <;> simp [h, mayIssue]
    | false => rcases ended with h | h <;> simp [h, mayCollect]
  · have idle : t.serveRestore c = t := by
      unfold State.serveRestore
      dsimp only
      rw [other.record, outstanding]
      dsimp only
      rw [if_neg]
      rw [Bool.and_eq_true, State.admitsRestore_iff, other.depth]
      omega
    rw [idle, State.reconcile_of_carries (o := o) (by rw [other.record]; exact outstanding) (by rw [other.record]; exact credit)
      (by rw [other.record]; exact grants)]

/-- The service of a case whose outstanding action carries what is desired and is owed: with room for a RESTORE once its WITHDRAWs
are admitted, that enters too, and a collection deadline starts unless one is running (R122, R17). -/
theorem State.serveCase_restore {s : State} (hw : s.tableOk) (hn : (s.caseAt c).state ≠ .free) {o : Outstanding} {ws : List Nat}
    (owed : (s.caseAt c).owed = ⟨ws, false⟩) (issueOwed : (s.caseAt c).flags.issueOwed = true)
    (outstanding : (s.caseAt c).outstanding = some o) (credit : o.credit = (s.caseAt c).desiredCredit)
    (grants : o.grants = (s.caseAt c).desiredGrants) (room : s.actions.depth + ws.length < 192) :
    s.sameCasesBut (s.serveCase c) c ∧
    (s.serveCase c).caseAt c = { s.caseAt c with
      owed := ⟨[], false⟩, flags := { (s.caseAt c).flags with issueOwed := false }
      deadline := some ((s.caseAt c).collectionDeadline.getD
        (s.daysAhead .collection (((s.caseAt c).timing.map Timing.collectionDays).getD 0)))
      overpaid := max ((s.caseAt c).applied - (s.caseAt c).target - (s.caseAt c).unpaid) 0 } ∧
    s.serveCase c = { s with
      cases := (s.serveCase c).cases
      actions := { s.actions with
        untaken := s.actions.untaken ++ ws.map (fun g => .withdraw ⟨c, (s.caseAt c).inst, g⟩ (s.caseAt c).newCard) ++
          [.restore ⟨c, (s.caseAt c).inst, o.generation⟩ (s.caseAt c).newCard o.credit o.grants] } } := by
  have other := State.serveOther_admits (entries := ws.map fun g => .withdraw ⟨c, (s.caseAt c).inst, g⟩ (s.caseAt c).newCard)
    hw hn rfl (by rw [owed]; simp)
  rw [List.take_of_length_le (by simp; omega)] at other
  have none_ : ws.drop (256 - s.actions.depth) = [] := List.drop_eq_nil_of_le (by omega)
  rw [owed] at other
  dsimp only at other
  rw [none_, Bool.false_and] at other
  suffices served : s.serveCase c =
      (((s.serveWithdraws c (s.caseAt c).owed.withdraws).serveUnblock c).queueRestore c o).setOverpaid c by
    rw [served, owed]
    dsimp only
    generalize (s.serveWithdraws c ws).serveUnblock c = t at other ⊢
    have queued : (t.queueRestore c o).tableOk :=
      (RecordStep.queueRestore (s := t) other.table (by rw [other.record]; exact hn) o).table
    have record := State.caseAt_queueRestore (s := t) other.table (c := c) o
    refine ⟨fun j hj => ?_, ?_, ?_⟩
    · exact ((State.caseAt_setCase_other (t.queueRestore c o) hj _).trans
        ((Worked.queueRestore (c := c) other.table o).others j hj)).trans (other.others j hj)
    · rw [State.caseAt_setOverpaid queued, record, CaseRecord.startCollection_eq, other.record, other.frame]
      rfl
    · unfold State.setOverpaid State.queueRestore State.refOfCase
      rw [other.record]
      rw [other.frame]
      rfl
  unfold State.serveCase
  rw [owed]
  dsimp only
  generalize (s.serveWithdraws c ws).serveUnblock c = t at other ⊢
  have placed : t.serveRestore c = t.queueRestore c o := by
    unfold State.serveRestore
    dsimp only
    rw [other.record, outstanding]
    dsimp only
    rw [if_pos]
    rw [Bool.and_eq_true, State.admitsRestore_iff, other.depth, issueOwed, List.length_map]
    exact ⟨rfl, room⟩
  have record := State.caseAt_queueRestore (s := t) other.table (c := c) o
  rw [CaseRecord.startCollection_eq, other.record] at record
  rw [placed, State.reconcile_of_carries (o := o) (by rw [record]; exact outstanding) (by rw [record]; exact credit)
    (by rw [record]; exact grants)]

end Serve

/-! ### The service where one case alone owes -/

theorem State.serveCases_none {s : State} : ∀ {cs : List Nat}, (∀ c ∈ cs, s.servable c = false) → s.serveCases cs = s := by
  intro cs
  induction cs with
  | nil => intro _; rfl
  | cons c cs ih =>
    intro h
    obtain ⟨head, rest⟩ := List.forall_mem_cons.mp h
    unfold State.serveCases
    rw [head]
    exact ih rest

/-- Where one case alone owes an entry, the service is that case's. -/
theorem State.serveCases_one {s : State} (hw : s.tableOk) {c : Nat} (hn : (s.caseAt c).state ≠ .free)
    (idle : ∀ j, j ≠ c → (s.caseAt j).owes = false) : ∀ {cs : List Nat}, cs.Nodup →
    s.serveCases cs = if c ∈ cs ∧ s.servable c = true then s.serveCase c else s := by
  intro cs
  induction cs with
  | nil => intro _; simp [State.serveCases]
  | cons j cs ih =>
    intro nodup
    obtain ⟨absent, rest⟩ := List.nodup_cons.mp nodup
    unfold State.serveCases
    by_cases hj : j = c
    · subst hj
      cases servable : s.servable j with
      | false => simpa [servable] using ih rest
      | true =>
        have others : ∀ i ∈ cs, (s.serveCase j).servable i = false := fun i hi => by
          have ne : i ≠ j := fun e => absent (e ▸ hi)
          refine State.servable_of_owes ?_
          rw [(Worked.serveCase hw hn).others i ne]
          exact idle i ne
        simpa using State.serveCases_none others
    · rw [State.servable_of_owes (idle j hj)]
      simpa [Ne.symm hj] using ih rest

/-- The arbiter's service where one case alone owes (R122). -/
theorem State.serveOwed_one {s : State} (hw : s.tableOk) {c : Nat} (hn : (s.caseAt c).state ≠ .free)
    (idle : ∀ j, j ≠ c → (s.caseAt j).owes = false) (servable : s.servable c = true) : s.serveOwed = s.serveCase c := by
  have listed : c ∈ s.cases.map Prod.fst := List.mem_map.mpr ⟨_, State.listed_of_ne_free s c hn, rfl⟩
  have nodup : (s.cases.map Prod.fst).Nodup := by
    refine List.Pairwise.map _ (fun a b h => ?_) hw.1.1
    exact Nat.ne_of_lt h
  unfold State.serveOwed
  rw [State.serveCases_one hw hn idle nodup, if_pos ⟨listed, servable⟩]

/-! ### The action parcel whose frame has left -/

/-- The part as an action parcel has left the queue, before the room is served (R124). -/
def State.parcelLeft (s : State) : State := { s with actions := ⟨[], s.actions.untaken, s.actions.seq + 1⟩ }

theorem State.parcelLeft_caseAt (s : State) (j : Nat) : s.parcelLeft.caseAt j = s.caseAt j := rfl

theorem State.parcelLeft_depth (s : State) : s.parcelLeft.actions.depth = s.actions.untaken.length := by
  simp [State.parcelLeft, ActionUnit.depth]

theorem exec_actionParcelSent {s : State} (h : s.actions.taken ≠ []) :
    exec .actionParcelSent s = .next (s.parcelLeft.serveOwed.afterReached s) := by
  show execActionParcelSent s = _
  rw [execActionParcelSent, if_neg (by simpa using h)]
  rfl

/-- An event that gives no case another deadline is followed by no expiry. -/
theorem State.afterReached_same {s t : State} (h : ∀ j, (t.caseAt j).deadline = (s.caseAt j).deadline) : t.afterReached s = t :=
  State.afterReached_none (State.reachedSince_none fun j => .inl (h j))

/-- Where one case alone owes an entry the queue admits, the parcel's end is that case's service. -/
theorem State.parcelLeft_one {s : State} (hw : s.tableOk) {c : Nat} (hn : (s.caseAt c).state ≠ .free)
    (idle : ∀ j, j ≠ c → (s.caseAt j).owes = false) (servable : s.parcelLeft.servable c = true) :
    s.parcelLeft.serveOwed = s.parcelLeft.serveCase c :=
  State.serveOwed_one (s := s.parcelLeft) hw hn idle servable

/-! ### Several cases that each owe an UNBLOCK -/

/-- What a case that owes its UNBLOCK alone is. -/
def CaseRecord.owesUnblock (r : CaseRecord) : Prop :=
  r.owed = ⟨[], true⟩ ∧ r.outstanding = none ∧ (r.state = .closed ∨ r.state = .cancelled)

/-- The record once the UNBLOCK is admitted (R122). -/
def CaseRecord.unblocked (r : CaseRecord) : CaseRecord :=
  { r with owed := ⟨[], false⟩, overpaid := max (r.applied - r.target - r.unpaid) 0 }

theorem CaseRecord.owesUnblock.live {r : CaseRecord} (h : r.owesUnblock) : r.state ≠ .free := by
  rcases h.2.2 with h | h <;> simp [h]

theorem CaseRecord.owesUnblock.owes {r : CaseRecord} (h : r.owesUnblock) : r.owes = true := by
  simp [CaseRecord.owes, h.1]

/-- The service of a list of cases, of which those that owe an entry owe an UNBLOCK alone: the first of them, as far as the queue has
room (R122). -/
theorem State.serveCases_unblocks : ∀ (cs : List Nat) {s : State} {owing : List Nat} {room : Nat}, s.tableOk → cs.Nodup →
    owing = cs.filter (fun j => (s.caseAt j).owes) → (∀ j ∈ owing, (s.caseAt j).owesUnblock) → room = 256 - s.actions.depth →
    s.serveCases cs = { s with
      cases := (s.serveCases cs).cases
      actions := { s.actions with untaken := s.actions.untaken ++ (owing.take room).map (fun j =>
        .unblock ⟨j, (s.caseAt j).inst, 0⟩ (s.caseAt j).oldCard) } } ∧
    ∀ j, (s.serveCases cs).caseAt j = if j ∈ owing.take room then (s.caseAt j).unblocked else s.caseAt j := by
  intro cs
  induction cs with
  | nil =>
    rintro s owing room - - rfl - -
    exact ⟨by simp [State.serveCases], fun j => by simp [State.serveCases]⟩
  | cons c cs ih =>
    intro s owing room hw nodup ho each hr
    obtain ⟨absent, rest⟩ := List.nodup_cons.mp nodup
    unfold State.serveCases
    cases owes : (s.caseAt c).owes with
    | false =>
      rw [List.filter_cons_of_neg (by simp [owes])] at ho
      rw [State.servable_of_owes owes]
      exact ih hw rest ho each hr
    | true =>
      rw [List.filter_cons_of_pos (by simpa using owes)] at ho
      have this := each c (by simp [ho])
      rcases Nat.lt_or_ge s.actions.depth 256 with space | full
      · obtain ⟨others, record, frame⟩ := State.serveCase_other (entries := [.unblock ⟨c, (s.caseAt c).inst, 0⟩ (s.caseAt c).oldCard])
          (owed := ⟨[], false⟩) hw this.live hr (by rw [this.1]; rfl)
          (by rw [this.1]; simp; omega) (.inl ⟨this.2.1, this.2.2⟩)
        have one : room = (room - 1) + 1 := by omega
        rw [one, List.take_succ_cons, List.take_nil] at frame
        have servable : s.servable c = true := by
          unfold State.servable
          rw [if_pos (by simp [this.1])]
          exact s.admitsOther_iff.mpr space
        have same : cs.filter (fun j => ((s.serveCase c).caseAt j).owes) = cs.filter (fun j => (s.caseAt j).owes) :=
          List.filter_congr fun j hj => by rw [others j fun e => absent (e ▸ hj)]
        have still : ∀ j ∈ cs.filter (fun j => (s.caseAt j).owes), j ≠ c := fun j hj e => absent (e ▸ (List.mem_filter.mp hj).1)
        obtain ⟨frame', records⟩ := ih (s := s.serveCase c) (room := room - 1) (RecordStep.serveCase hw this.live).table rest same.symm
          (fun j hj => by rw [others j (still j hj)]; exact each j (by rw [ho]; exact List.mem_cons_of_mem _ hj))
          (by rw [frame]; simp [ActionUnit.depth] at hr ⊢; omega)
        rw [if_pos servable, ho, one, List.take_succ_cons]
        refine ⟨?_, fun j => ?_⟩
        · have entries : ((cs.filter (fun j => (s.caseAt j).owes)).take (room - 1)).map (fun j => ActionEntry.unblock
              ⟨j, ((s.serveCase c).caseAt j).inst, 0⟩ ((s.serveCase c).caseAt j).oldCard) =
              ((cs.filter (fun j => (s.caseAt j).owes)).take (room - 1)).map (fun j => ActionEntry.unblock
              ⟨j, (s.caseAt j).inst, 0⟩ (s.caseAt j).oldCard) :=
            List.map_congr_left fun j hj => by rw [others j (still j (List.mem_of_mem_take hj))]
          rw [entries] at frame'
          generalize (s.serveCase c).serveCases cs = u at frame' ⊢
          generalize s.serveCase c = t at frame frame'
          rw [frame', frame]
          simp
        · rw [records j]
          by_cases hj : j = c
          · subst hj
            rw [if_neg fun k => still j (List.mem_of_mem_take k) rfl, if_pos List.mem_cons_self, record]
            rfl
          · rw [others j hj]
            simp [hj]
      · have none_ : room = 0 := by omega
        have servable (j : Nat) (hj : (s.caseAt j).owes = true → (s.caseAt j).owesUnblock) : s.servable j = false := by
          cases k : (s.caseAt j).owes with
          | false => exact State.servable_of_owes k
          | true =>
            unfold State.servable
            rw [if_pos (by simp [(hj k).1])]
            exact Bool.eq_false_iff.mpr fun k => absurd (s.admitsOther_iff.mp k) (Nat.not_lt.mpr full)
        rw [servable c fun _ => this, if_neg Bool.false_ne_true, State.serveCases_none fun j hj => servable j fun k =>
          each j (by rw [ho]; exact List.mem_cons_of_mem _ (List.mem_filter.mpr ⟨hj, k⟩)), none_]
        exact ⟨by simp, fun j => by simp⟩

/-- The owing cases of the Case Table, from the lowest case number on. -/
theorem State.owing_eq {s : State} (hw : s.tableOk) :
    (s.cases.map Prod.fst).filter (fun j => (s.caseAt j).owes) = (List.range 2048).filter (fun j => (s.caseAt j).owes) := by
  have sorted : (s.cases.map Prod.fst).Pairwise (· < ·) := List.pairwise_map.mpr hw.1.1
  refine List.Perm.eq_of_pairwise (fun a b _ _ h k => absurd h (Nat.lt_asymm k))
    (sorted.filter _) (List.pairwise_lt_range.filter _) ?_
  refine (List.perm_ext_iff_of_nodup ((sorted.imp Nat.ne_of_lt).filter _) (List.nodup_range.filter _)).mpr fun j => ?_
  rw [List.mem_filter, List.mem_filter, and_congr_left_iff]
  intro owes
  have live : (s.caseAt j).state ≠ .free := fun hf => by
    rw [hw.free_eq hf] at owes; simp [CaseRecord.owes, CaseRecord.freeWith, CaseFlags.none] at owes
  exact ⟨fun _ => List.mem_range.mpr (hw.live_lt live), fun _ => List.mem_map.mpr ⟨_, State.listed_of_ne_free s j live, rfl⟩⟩

/-- A case that is not ISSUED has nothing outstanding, and owes no RESTORE (R117, R121). -/
theorem CaseRecord.lifeOk.ended {r : CaseRecord} (h : r.lifeOk) (ended : r.state = .closed ∨ r.state = .cancelled) :
    r.outstanding = none := by
  cases k : r.outstanding with
  | none => rfl
  | some o => have := (h.outstanding o k).1; rcases ended with e | e <;> simp [e] at this

/-- Settles O40: the parcel by the link and the taken entries; the owing cases in the order in which they are served. -/
theorem actionParcelsAndOwedEntries : Obligations.ActionParcelsAndOwedEntries := by
  refine ⟨fun s => ⟨fun up idle => ?_, fun busy => ?_, fun none_ => ?_, fun some_ idle => ?_⟩, ?_, ?_, ?_⟩
  · show execActionParcelStart s = _
    rw [execActionParcelStart, if_pos (by simp [up, idle])]
    rfl
  · show execActionParcelStart s = _
    rw [execActionParcelStart, if_neg]
    rcases busy with h | h <;> simp [h]
  · show execActionParcelSent s = _
    rw [execActionParcelSent, if_pos (by simp [none_])]
  · have served : s.parcelLeft.serveOwed = s.parcelLeft := State.serveCases_idle (s := s.parcelLeft) idle _
    rw [exec_actionParcelSent some_, served, State.afterReached_same (s := s) (t := s.parcelLeft) fun _ => rfl]
    rfl
  · rintro s c r owed room hw hs rfl ended owing taken hr space idle rfl
    have live : (s.caseAt c).state ≠ .free := by rcases ended with e | e <;> simp [e]
    have servable : s.parcelLeft.servable c = true := by
      have owes : (!(s.caseAt c).owed.withdraws.isEmpty || (s.caseAt c).owed.unblock) = true := by
        refine Decidable.by_contra fun k => owing ?_
        rw [Bool.not_eq_true, Bool.or_eq_false_iff] at k
        exact congrArg₂ Owed.mk (by simpa using k.1) k.2
      exact (if_pos owes).trans (State.admitsOther_iff _ |>.mpr (by rw [State.parcelLeft_depth]; omega))
    obtain ⟨others, record, frame⟩ := State.serveCase_other (s := s.parcelLeft) (c := c) (room := room) hw live
      (by rw [State.parcelLeft_depth]; exact hr) rfl rfl (.inl ⟨(hs.at c).ended ended, ended⟩)
    rw [exec_actionParcelSent taken, State.parcelLeft_one hw live idle servable]
    refine ⟨_, rfl, ?_⟩
    rw [State.afterReached_same fun j => ?_]
    · exact ⟨others, record, frame⟩
    · by_cases hj : j = c
      · subst hj; rw [record]; rfl
      · rw [others j hj]; rfl
  · rintro s owing room hw hs taken ho hr each
    rw [← State.owing_eq hw] at ho
    rw [exec_actionParcelSent taken]
    have unblocks (j : Nat) (hj : j ∈ owing) : (s.caseAt j).owesUnblock :=
      ⟨(each j hj).1, (hs.at j).ended (each j hj).2, (each j hj).2⟩
    have nodup : (s.cases.map Prod.fst).Nodup := (List.pairwise_map.mpr hw.1.1).imp Nat.ne_of_lt
    obtain ⟨frame, records⟩ := State.serveCases_unblocks (s.cases.map Prod.fst) (s := s.parcelLeft) (room := room) hw nodup ho unblocks
      (by rw [State.parcelLeft_depth]; exact hr)
    refine ⟨_, rfl, ?_⟩
    rw [State.afterReached_same fun j => ?_]
    · exact ⟨frame, records⟩
    · rw [show State.caseAt s.parcelLeft.serveOwed j = _ from records j]
      split <;> rfl
  · rintro s c r o ws depth hw hs rfl issued issueOwed outstanding credit grants owed taken idle rfl
    have live : (s.caseAt c).state ≠ .free := by simp [issued]
    rw [exec_actionParcelSent taken]
    refine ⟨fun full none_ => ?_, fun full some_ fits => ?_, fun room => ?_⟩
    · subst none_
      have servable (j : Nat) : s.parcelLeft.servable j = false := by
        by_cases hj : j = c
        · subst hj
          unfold State.servable
          rw [if_neg (by rw [State.parcelLeft_caseAt, owed]; simp), Bool.and_eq_false_iff]
          refine .inr (Bool.eq_false_iff.mpr fun k => ?_)
          rw [State.admitsRestore_iff, State.parcelLeft_depth] at k
          simp at full
          omega
        · exact State.servable_of_owes (s := s.parcelLeft) (idle j hj)
      have served : s.parcelLeft.serveOwed = s.parcelLeft := State.serveCases_none fun j _ => servable j
      rw [served, State.afterReached_same (s := s) (t := s.parcelLeft) fun _ => rfl]
      rfl
    · have servable : s.parcelLeft.servable c = true := by
        have owes : (!(s.caseAt c).owed.withdraws.isEmpty || (s.caseAt c).owed.unblock) = true := by simp [owed, some_]
        have := List.length_pos_of_ne_nil some_
        exact (if_pos owes).trans (State.admitsOther_iff _ |>.mpr (by rw [State.parcelLeft_depth]; omega))
      obtain ⟨others, record, frame⟩ := State.serveCase_other (s := s.parcelLeft) (c := c)
        (entries := ws.map fun g => .withdraw ⟨c, (s.caseAt c).inst, g⟩ (s.caseAt c).newCard) (owed := ⟨[], false⟩)
        (room := 256 - s.actions.untaken.length) hw live (by rw [State.parcelLeft_depth])
        (by rw [State.parcelLeft_caseAt, owed]; simp)
        (by rw [State.parcelLeft_caseAt, owed]; simp; omega)
        (.inr ⟨o, outstanding, credit, grants, by rw [State.parcelLeft_depth]; simp; omega⟩)
      rw [List.take_of_length_le (by simp; omega)] at frame
      rw [State.parcelLeft_one hw live idle servable]
      refine ⟨_, rfl, ?_⟩
      rw [State.afterReached_same fun j => ?_]
      · exact ⟨others, record, frame⟩
      · by_cases hj : j = c
        · subst hj; rw [record]; rfl
        · rw [others j hj]; rfl
    · have servable : s.parcelLeft.servable c = true := by
        unfold State.servable
        dsimp only
        split
        · exact State.admitsOther_iff _ |>.mpr (by rw [State.parcelLeft_depth]; omega)
        · rw [Bool.and_eq_true, State.admitsRestore_iff, State.parcelLeft_depth]
          exact ⟨issueOwed, by omega⟩
      obtain ⟨others, record, frame⟩ := State.serveCase_restore (s := s.parcelLeft) (c := c) hw live owed issueOwed outstanding
        credit grants (by rw [State.parcelLeft_depth]; exact room)
      rw [State.parcelLeft_one hw live idle servable]
      refine ⟨_, _, rfl, State.reachedTaken_afterReached (RecordStep.serveCase (s := s.parcelLeft) hw live).table
        (by rw [frame]; rfl) others, others, record, frame⟩

end Sys2Proof.Machine
end

section
/-! PROOFS. What work on actions leaves of every case record and of the raised events: the reconcile step, the service of owing cases,
and the expiries that follow an event. -/

namespace Sys2Proof.Machine

/-! ### Records and events -/

/-- `r'` is `r` after work on its actions: what the case was opened with, its evidence, result and totals stay, and no window end
starts. -/
structure CaseRecord.handled (r r' : CaseRecord) : Prop where
  kept : r' = { r with
    state := r'.state, deadline := r'.deadline, holdReasons := r'.holdReasons, generation := r'.generation
    outstanding := r'.outstanding, flags := { r.flags with issueOwed := r'.flags.issueOwed }, owed := r'.owed
    overpaid := r'.overpaid }
  deadline : ∀ d, r'.deadline = some d → r.deadline = some d ∨ d.kind ≠ .windowEnd

theorem CaseRecord.handled.refl (r : CaseRecord) : r.handled r := ⟨rfl, fun _ => .inl⟩

theorem CaseRecord.handled.trans {r r' r'' : CaseRecord} (h : r.handled r') (k : r'.handled r'') : r.handled r'' where
  kept := by
    have e := k.kept
    rw [h.kept] at e
    exact e
  deadline d hd := (k.deadline d hd).elim (h.deadline d) .inr

/-- Every record is handled, and no raised event is lost. -/
structure Handled (s t : State) : Prop where
  wf : tableWf CaseRecord.reset t.cases
  records : ∀ j, (s.caseAt j).handled (t.caseAt j)
  events : s.notices.untaken <+: t.notices.untaken

theorem Handled.trans {s t u : State} (h : Handled s t) (k : Handled t u) : Handled s u :=
  ⟨k.wf, fun j => (h.records j).trans (k.records j), h.events.trans k.events⟩

section Steps
variable {s : State} (hw : tableWf CaseRecord.reset s.cases)
include hw

theorem Handled.same {t : State} (hc : t.cases = s.cases) (hn : t.notices = s.notices) : Handled s t :=
  ⟨hc ▸ hw, fun j => by rw [State.caseAt_congr hc]; exact .refl _, by rw [hn]⟩

theorem Handled.refl : Handled s s := .same hw rfl rfl

theorem Handled.setCase {c : Nat} {r : CaseRecord} (h : (s.caseAt c).handled r) : Handled s (s.setCase c r) where
  wf := State.setCase_wf s hw c r
  records j := by
    by_cases hj : j = c
    · subst hj; rw [State.caseAt_setCase_same s hw]; exact h
    · rw [State.caseAt_setCase_other s hj]; exact .refl _
  events := List.prefix_refl _

theorem Handled.raiseEvent (c : Nat) (d : EventDetail) : Handled s (s.raiseEvent c d) where
  wf := hw
  records j := .refl _
  events := by
    show _ <+: (NoticeUnit.raise _ _).untaken
    unfold NoticeUnit.raise
    split
    · exact List.prefix_append _ _
    · exact List.prefix_refl _

/-- An entry joins the queue, and a record is written. -/
theorem Handled.enqueue (e : ActionEntry) {c : Nat} {r : CaseRecord} (h : (s.caseAt c).handled r) :
    Handled s ((s.enqueue e).setCase c r) :=
  (Handled.same (t := s.enqueue e) hw rfl rfl).trans (.setCase (s := s.enqueue e) hw h)

variable {c : Nat}

theorem Handled.placeWithdraw (g : Nat) : Handled s (s.placeWithdraw c g) := by
  unfold State.placeWithdraw
  dsimp only
  split
  · exact .same hw rfl rfl
  · exact .setCase hw ⟨rfl, fun _ => .inl⟩

theorem Handled.placeUnblock : Handled s (s.placeUnblock c) := by
  unfold State.placeUnblock
  dsimp only
  split
  · exact .same hw rfl rfl
  · exact .setCase hw ⟨rfl, fun _ => .inl⟩

omit hw in
/-- A collection deadline is no window end (R17). -/
theorem CaseRecord.handled_startCollection (r : CaseRecord) (b : Bool) (now : Nat) :
    r.handled (({ r with flags := { r.flags with issueOwed := b } } : CaseRecord).startCollection now) := by
  rw [CaseRecord.startCollection_eq]
  refine ⟨rfl, fun d hd => .inr ?_⟩
  obtain rfl := Option.some.inj hd
  cases hc : CaseRecord.collectionDeadline _ with
  | none => simp
  | some d => simpa using (beq_iff_eq.mp (Option.filter_eq_some_iff.mp hc).2 ▸ by simp : d.kind ≠ .windowEnd)

theorem Handled.queueRestore (o : Outstanding) : Handled s (s.queueRestore c o) :=
  .enqueue hw _ (CaseRecord.handled_startCollection _ _ _)

theorem Handled.placeRestore (o : Outstanding) : Handled s (s.placeRestore c o) := by
  unfold State.placeRestore
  split
  · exact .queueRestore hw o
  · exact .setCase hw ⟨rfl, fun _ => .inl⟩

theorem Handled.withdraw : Handled s (s.withdraw c).1 := by
  have cleared : Handled s (s.setCase c (s.caseAt c).clearOutstanding) := .setCase hw ⟨rfl, fun _ => .inl⟩
  unfold State.withdraw
  dsimp only
  split
  · exact cleared
  · split
    · exact cleared
    · split
      · exact cleared.trans (.same cleared.wf rfl rfl)
      · exact cleared.trans (.placeWithdraw cleared.wf _)

omit hw in
theorem CaseRecord.handled_issuing (r : CaseRecord) : r.handled r.issuing :=
  ⟨rfl, fun _ hd => .inl (by
    have kept : r.keepCollection = _ := hd
    rw [CaseRecord.keepCollection_eq] at kept
    exact (Option.filter_eq_some_iff.mp kept).1)⟩

theorem Handled.issue : Handled s (s.issue c) := by
  unfold State.issue
  dsimp only
  split
  · have first : Handled s (s.setCase c (s.caseAt c).issuing) := .setCase hw (CaseRecord.handled_issuing _)
    exact first.trans (.placeRestore first.wf _)
  · have held : Handled s (s.setCase c { s.caseAt c with state := .held, deadline := none, holdReasons := HoldReasons.exhausted }) :=
      .setCase hw ⟨rfl, fun _ hd => by cases hd⟩
    exact held.trans (.raiseEvent held.wf _ _)

theorem Handled.enterCollected : Handled s (s.enterCollected c) := by
  have entered : Handled s (s.setCase c { s.caseAt c with
      state := .collected
      deadline := some (deadlineAt .tailEnd (s.time.now + (((s.caseAt c).timing.map Timing.tailDays).getD 0) * Config.day)) }) :=
    .setCase hw ⟨rfl, fun d hd => .inr (by obtain rfl := Option.some.inj hd; simp [deadlineAt])⟩
  exact entered.trans (.raiseEvent entered.wf _ _)

theorem Handled.setOverpaid : Handled s (s.setOverpaid c) := .setCase hw ⟨rfl, fun _ => .inl⟩

theorem Handled.reconcile (b : Bool) : Handled s (s.reconcile c b).1 := by
  have first : Handled s (s.reconcileWithdraw c).1 := by
    unfold State.reconcileWithdraw
    split
    · exact .withdraw hw
    · exact .refl hw
  have second : Handled s ((s.reconcileWithdraw c).1.reconcileIssue c (mayIssue (s.caseAt c).state b)) := by
    unfold State.reconcileIssue
    dsimp only
    split
    · exact first.trans (.issue first.wf)
    · exact first
  have third : Handled s (((s.reconcileWithdraw c).1.reconcileIssue c (mayIssue (s.caseAt c).state b)).reconcileCollect c
      (mayCollect (s.caseAt c).state b)) := by
    generalize (s.reconcileWithdraw c).1.reconcileIssue c (mayIssue (s.caseAt c).state b) = t at second ⊢
    unfold State.reconcileCollect
    dsimp only
    split
    · exact second.trans (.enterCollected second.wf)
    · exact second
  exact third.trans (.setOverpaid third.wf)

omit hw in
theorem Handled.serveWithdraws : ∀ (gs : List Nat) {s : State}, tableWf CaseRecord.reset s.cases → Handled s (s.serveWithdraws c gs) := by
  intro gs
  induction gs with
  | nil => exact fun hw => .refl hw
  | cons g gs ih =>
    intro s hw
    unfold State.serveWithdraws
    split
    · have first : Handled s ((s.enqueue (.withdraw (s.refOfCase c g) (s.caseAt c).newCard)).setCase c
          { s.caseAt c with owed := { (s.caseAt c).owed with withdraws := gs } }) := .enqueue hw _ ⟨rfl, fun _ => .inl⟩
      exact first.trans (ih first.wf)
    · exact .refl hw

theorem Handled.serveUnblock : Handled s (s.serveUnblock c) := by
  unfold State.serveUnblock
  dsimp only
  split
  · exact .enqueue hw _ ⟨rfl, fun _ => .inl⟩
  · exact .refl hw

theorem Handled.serveRestore : Handled s (s.serveRestore c) := by
  unfold State.serveRestore
  dsimp only
  split
  · split
    · exact .queueRestore hw _
    · exact .refl hw
  · exact .refl hw

theorem Handled.serveCase : Handled s (s.serveCase c) := by
  have first := Handled.serveWithdraws (c := c) (s.caseAt c).owed.withdraws hw
  have second := first.trans (.serveUnblock first.wf (c := c))
  have third := second.trans (.serveRestore second.wf (c := c))
  exact third.trans (.reconcile third.wf false)

omit hw in
theorem Handled.serveCases : ∀ (cs : List Nat) {s : State}, tableWf CaseRecord.reset s.cases → Handled s (s.serveCases cs) := by
  intro cs
  induction cs with
  | nil => exact fun hw => .refl hw
  | cons c cs ih =>
    intro s hw
    unfold State.serveCases
    split
    · have first := Handled.serveCase hw (c := c)
      exact first.trans (ih first.wf)
    · exact ih hw

omit hw in
theorem Handled.endEvent {s : State} {o : State × Bool} (h : Handled s o.1) : Handled s (endEvent o) := by
  unfold Machine.endEvent
  split
  · exact h.trans (.serveCases _ h.wf)
  · exact h

theorem Handled.collectionExpires : Handled s (s.collectionExpires c (s.caseAt c)) := by
  have first : Handled s (s.setCase c (s.caseAt c).expired) := .setCase hw ⟨rfl, fun _ hd => by cases hd⟩
  have second := first.trans (.withdraw first.wf (c := c))
  have third := second.trans (.setCase second.wf (c := c)
    (r := { ((s.setCase c (s.caseAt c).expired).withdraw c).1.caseAt c with state := .lapsed }) ⟨rfl, fun _ => .inl⟩)
  exact Handled.endEvent (o := (_, _)) (third.trans (.raiseEvent third.wf c _))

theorem Handled.tailExpires : Handled s (s.tailExpires c (s.caseAt c)) := by
  have closed : Handled s (s.setCase c { (s.caseAt c).expired with state := .closed }) := .setCase hw ⟨rfl, fun _ hd => by cases hd⟩
  exact closed.trans (.raiseEvent closed.wf _ _)

end Steps

/-- An event that starts no window end is followed by expiries of other kinds alone. -/
theorem State.afterReached_handled {s u : State} (hw : u.tableOk)
    (h : ∀ j d, (u.caseAt j).deadline = some d → (s.caseAt j).deadline = some d ∨ d.kind ≠ .windowEnd) :
    Handled u (u.afterReached s) ∧ CaseStep u (u.afterReached s) := by
  refine State.afterReached_keeps (P := fun t => Handled u t ∧ CaseStep u t) ⟨.refl hw.1, .refl u⟩ fun t c ⟨handled, step⟩ due => ?_
  obtain ⟨-, isDue, moved⟩ := State.reachedSince_spec due
  unfold State.expire
  cases hd : (t.caseAt c).deadline with
  | none => exact ⟨handled, step⟩
  | some d =>
    obtain ⟨kind, due⟩ := d
    cases kind with
    | windowEnd =>
      refine absurd hd fun hd => ?_
      rcases (handled.records c).deadline _ hd with e | e
      · rcases h c _ e with e | e
        · exact moved (hd.trans e.symm)
        · exact e rfl
      · exact e rfl
    | collection => exact ⟨handled.trans (.collectionExpires handled.wf), step.trans (.collectionExpires t c _)⟩
    | tailEnd => exact ⟨handled.trans (.tailExpires handled.wf), step.trans (.tailExpires t c _)⟩

end Sys2Proof.Machine
end

section
/-! PROOFS. CANCEL_CASE (R24): what it ends and keeps, its WITHDRAW and its UNBLOCK. -/

namespace Sys2Proof.Machine

/-! ### Where it is taken -/

theorem CaseRecord.anyApplied_iff (r : CaseRecord) :
    r.anyApplied = true ↔ r.applied ≠ 0 ∨ ∃ slot : PassSlot, r.grantStatus.get slot = .applied := by
  simp [CaseRecord.anyApplied, List.any_eq_true, mem_allSlots]

theorem CaseRecord.anyApplied_eq_false_iff (r : CaseRecord) :
    r.anyApplied = false ↔ r.applied = 0 ∧ ∀ slot : PassSlot, r.grantStatus.get slot ≠ .applied := by
  rw [← Bool.not_eq_true, CaseRecord.anyApplied_iff]
  simp

theorem CaseRecord.cancellable_iff (r : CaseRecord) : r.cancellable = true ↔
    (r.state = .collecting ∨ r.state = .held) ∨ ((r.state = .issued ∨ r.state = .lapsed) ∧ r.anyApplied = false) := by
  unfold CaseRecord.cancellable
  cases r.state <;> simp

/-! ### What the end of a case leaves -/

/-- The end of a case whose RESTORE has been withdrawn: its request is dropped, its UNBLOCK placed or owed, its record CANCELLED. -/
def State.endWithdrawn (v : State) (c : Nat) : State :=
  let t := (v.dropRequest c).placeUnblock c
  t.setCase c (t.caseAt c).cancelled

theorem State.endCase_eq (s : State) (c : Nat) : s.endCase c = ((s.withdraw c).1.endWithdrawn c, (s.withdraw c).2) := rfl

/-- `u` is `v` with case `c` CANCELLED: what it owes, the entries that joined the queue, and its request gone (R24). -/
structure EndedAs (c : Nat) (v u : State) (owed : Owed) (entries : List ActionEntry) : Prop where
  others : v.sameCasesBut u c
  record : u.caseAt c = { (v.caseAt c).cancelled with owed := owed }
  frame : u = { v with
    cases := u.cases, actions := { v.actions with untaken := v.actions.untaken ++ entries }
    settle := { v.settle with fifo := v.settle.fifo.filter (fun w => w.caseNo != c) } }

section Withdrawn
variable {v : State} (hv : tableWf CaseRecord.reset v.cases) {c : Nat}
include hv

theorem State.endWithdrawn_queued (room : v.actions.depth < 256) : EndedAs c v (v.endWithdrawn c) (v.caseAt c).owed
    [.unblock ⟨c, (v.caseAt c).inst, 0⟩ (v.caseAt c).oldCard] := by
  have placed : v.endWithdrawn c = ((v.dropRequest c).enqueue (.unblock ⟨c, (v.caseAt c).inst, 0⟩ (v.caseAt c).oldCard)).setCase c
      (v.caseAt c).cancelled := by
    unfold State.endWithdrawn
    rw [State.placeUnblock_queued (s := v.dropRequest c) room]
    rfl
  rw [placed]
  exact ⟨fun j hj => State.caseAt_setCase_other _ hj _, State.caseAt_setCase_same ((v.dropRequest c).enqueue _) hv c _, rfl⟩

theorem State.endWithdrawn_owed (full : 256 ≤ v.actions.depth) :
    EndedAs c v (v.endWithdrawn c) { (v.caseAt c).owed with unblock := true } [] := by
  have placed : v.endWithdrawn c = ((v.dropRequest c).setCase c { v.caseAt c with
      owed := { (v.caseAt c).owed with unblock := true } }).setCase c
      { (v.caseAt c).cancelled with owed := { (v.caseAt c).owed with unblock := true } } := by
    unfold State.endWithdrawn
    rw [State.placeUnblock_owed (s := v.dropRequest c) full]
    dsimp only
    rw [State.caseAt_setCase_same (v.dropRequest c) hv]
    rfl
  rw [placed]
  refine ⟨fun j hj => ?_, State.caseAt_setCase_same _ (State.setCase_wf (v.dropRequest c) hv c _) c _, ?_⟩
  · exact (State.caseAt_setCase_other _ hj _).trans (State.caseAt_setCase_other (v.dropRequest c) hj _)
  · rw [List.append_nil]; rfl

theorem State.endWithdrawn_ends : ∃ owed entries, EndedAs c v (v.endWithdrawn c) owed entries := by
  rcases Nat.lt_or_ge v.actions.depth 256 with room | full
  · exact ⟨_, _, State.endWithdrawn_queued hv room⟩
  · exact ⟨_, _, State.endWithdrawn_owed hv full⟩

end Withdrawn

/-! ### What follows the end of a case -/

/-- A record that is CANCELLED for good: nothing runs or is outstanding. -/
def CaseRecord.gone (r : CaseRecord) : Prop := r.state = .cancelled ∧ r.outstanding = none ∧ r.deadline = none

/-- The record of a case stays as it is, but for what it owes and its overpaid amount. -/
def State.restsAs (t : State) (c : Nat) (r : CaseRecord) : Prop :=
  t.tableOk ∧ t.caseAt c = { r with owed := (t.caseAt c).owed, overpaid := (t.caseAt c).overpaid }

section Rest
variable {c : Nat} {r : CaseRecord} (ended : r.gone)

/-- A change of other cases leaves the record. -/
theorem State.restsAs.congr {t u : State} (h : t.restsAs c r) (table : u.tableOk) (same : u.caseAt c = t.caseAt c) : u.restsAs c r :=
  ⟨table, by rw [same]; exact h.2⟩

include ended

theorem State.restsAs.gone {t : State} (h : t.restsAs c r) :
    (t.caseAt c).state = .cancelled ∧ (t.caseAt c).outstanding = none ∧ (t.caseAt c).deadline = none := by
  rw [h.2]; exact ended

theorem State.restsAs.serveCase {t : State} (h : t.restsAs c r) {j : Nat} (hj : (t.caseAt j).state ≠ .free) :
    (t.serveCase j).restsAs c r := by
  have table := (RecordStep.serveCase h.1 hj).table
  by_cases same : j = c
  · subst same
    obtain ⟨cancelled, none_, -⟩ := h.gone ended
    obtain ⟨-, record, -⟩ := State.serveCase_other h.1 hj rfl rfl rfl (.inl ⟨none_, .inr cancelled⟩)
    refine ⟨table, ?_⟩
    rw [record, h.2]
  · exact h.congr table ((Worked.serveCase h.1 hj).others c (Ne.symm same))

theorem State.restsAs.serveCases : ∀ (cs : List Nat) {t : State}, t.restsAs c r → (t.serveCases cs).restsAs c r := by
  intro cs
  induction cs with
  | nil => exact fun h => h
  | cons j cs ih =>
    intro t h
    unfold State.serveCases
    split
    · next servable => exact ih (h.serveCase ended (State.servable_live h.1 servable))
    · exact ih h

theorem State.restsAs.endEvent {o : State × Bool} (h : o.1.restsAs c r) : (endEvent o).restsAs c r := by
  unfold Machine.endEvent
  split
  · exact h.serveCases ended _
  · exact h

/-- The expiry of another case leaves the record. -/
theorem State.restsAs.expire {t : State} (h : t.restsAs c r) {j : Nat} (hj : j ≠ c) (live : (t.caseAt j).state ≠ .free) :
    (t.expire j (t.caseAt j)).restsAs c r := by
  have first : RecordStep t (t.setCase j (t.caseAt j).expired) := .setCase h.1 live ⟨Iff.rfl, rfl, rfl, rfl, rfl⟩
  have expired : (t.setCase j (t.caseAt j).expired).restsAs c r := h.congr first.table (State.caseAt_setCase_other t hj.symm _)
  unfold State.expire
  split
  · exact expired.congr (RecordStep.of_cases expired.1 (by simp [State.windowExpires])).table (State.caseAt_congr (by simp [State.windowExpires]) c)
  · have second := first.trans (.withdraw first.table (first.live live))
    have withdrawn : ((t.setCase j (t.caseAt j).expired).withdraw j).1.restsAs c r :=
      expired.congr second.table ((Worked.withdraw first.table).others c hj.symm)
    have third := second.trans (.setCase second.table (second.live live)
      (r := { ((t.setCase j (t.caseAt j).expired).withdraw j).1.caseAt j with state := .lapsed }) (.live (second.live live) (by simp) rfl rfl rfl rfl))
    have lapsed := withdrawn.congr third.table (State.caseAt_setCase_other _ hj.symm _)
    exact State.restsAs.endEvent ended (o := (_, _)) (lapsed.congr (u := State.raiseEvent _ j _) third.table rfl)
  · have closed : RecordStep t (t.setCase j { (t.caseAt j).expired with state := .closed }) :=
      .setCase h.1 live (.live live (by simp) rfl rfl rfl rfl)
    exact h.congr (u := t.tailExpires j _) closed.table (State.caseAt_setCase_other t hj.symm _)
  · exact h

theorem State.restsAs.afterReached {u : State} (h : u.restsAs c r) (before : State) : (u.afterReached before).restsAs c r :=
  State.afterReached_keeps (P := fun t => t.restsAs c r) h fun t j h due => by
    have isDue := (State.reachedSince_spec due).2.1
    refine h.expire ended (fun e => ?_) (State.reachedSince_live h.1 due)
    subst e
    rw [CaseRecord.isDue_none (h.gone ended).2.2] at isDue
    cases isDue

end Rest

/-! ### CANCEL_CASE -/

/-- The record CANCEL_CASE leaves, but for what it owes (R24). -/
def CaseRecord.cancelledRecord (r : CaseRecord) : CaseRecord := r.clearOutstanding.cancelled

theorem CaseRecord.cancelledRecord_gone (r : CaseRecord) : r.cancelledRecord.gone := ⟨rfl, rfl, rfl⟩

section Cancel
variable {s : State} (hw : s.tableOk) {c : Nat} (hn : (s.caseAt c).state ≠ .free)
include hw hn

omit hn in
theorem State.withdraw_record : (s.withdraw c).1.caseAt c =
    { (s.caseAt c).clearOutstanding with owed := ((s.withdraw c).1.caseAt c).owed } := (State.withdraw_frame hw c).2.2

/-- A case that ends is CANCELLED, and no other case is touched (R24). -/
theorem State.endCase_ends : (s.endCase c).1.tableOk ∧ s.sameCasesBut (s.endCase c).1 c ∧
    (s.endCase c).1.caseAt c = { (s.caseAt c).cancelledRecord with owed := ((s.endCase c).1.caseAt c).owed } ∧
    (s.endCase c).1 = { s with
      cases := (s.endCase c).1.cases, actions := (s.endCase c).1.actions
      settle := { s.settle with fifo := s.settle.fifo.filter (fun w => w.caseNo != c) } } := by
  obtain ⟨others, frame, record⟩ := State.withdraw_frame hw c
  have withdrawn := RecordStep.withdraw hw hn
  have dropped := withdrawn.trans (.of_cases (t := (s.withdraw c).1.dropRequest c) withdrawn.table rfl)
  have placed := dropped.trans (.placeUnblock dropped.table (dropped.live hn))
  have table : (s.endCase c).1.tableOk := State.setCase_tableOk placed.table (hw.live_lt hn) fun k => by simp [CaseRecord.cancelled] at k
  rw [State.endCase_eq] at table ⊢
  obtain ⟨owed, entries, ended⟩ := State.endWithdrawn_ends withdrawn.table.1 (c := c)
  generalize (s.withdraw c).1 = v at *
  refine ⟨table, fun j hj => (ended.others j hj).trans (others j hj), ?_, ?_⟩
  · dsimp only
    rw [ended.record, record]
    rfl
  · dsimp only
    rw [ended.frame, frame]

theorem State.endCase_rests : (s.endCase c).1.restsAs c (s.caseAt c).cancelledRecord := by
  obtain ⟨table, -, record, -⟩ := State.endCase_ends hw hn
  exact ⟨table, by rw [record]⟩

/-- The UNBLOCK joins the queue the withdrawal left, or is owed (R24, R120). -/
theorem State.endCase_unblock :
    ((s.withdraw c).1.actions.depth < 256 → (s.endCase c).1.actions = { (s.withdraw c).1.actions with
        untaken := (s.withdraw c).1.actions.untaken ++ [.unblock ⟨c, (s.caseAt c).inst, 0⟩ (s.caseAt c).oldCard] } ∧
      ((s.endCase c).1.caseAt c).owed = ((s.withdraw c).1.caseAt c).owed) ∧
    (256 ≤ (s.withdraw c).1.actions.depth → (s.endCase c).1.actions = (s.withdraw c).1.actions ∧
      ((s.endCase c).1.caseAt c).owed = { ((s.withdraw c).1.caseAt c).owed with unblock := true }) := by
  have wf := (RecordStep.withdraw hw hn).table.1
  obtain ⟨-, -, record⟩ := State.withdraw_frame hw c
  rw [State.endCase_eq]
  generalize (s.withdraw c).1 = v at *
  refine ⟨fun room => ?_, fun full => ?_⟩
  · have ended := State.endWithdrawn_queued wf room (c := c)
    refine ⟨?_, by dsimp only; rw [ended.record]⟩
    dsimp only
    rw [ended.frame, record]
    rfl
  · have ended := State.endWithdrawn_owed wf full (c := c)
    refine ⟨?_, by dsimp only; rw [ended.record]⟩
    dsimp only
    rw [ended.frame, List.append_nil]

/-- Where the withdrawal frees no room, or none that is waited for, the end of the case is all that happens. -/
theorem State.cancelAt_of_idle (idle : (s.withdraw c).2 = false ∨ ∀ j, (s.endCase c).1.servable j = false) :
    s.cancelAt c = (s.endCase c).1 := by
  obtain ⟨-, others, record, -⟩ := State.endCase_ends hw hn
  have served : endEvent (s.endCase c) = (s.endCase c).1 := by
    unfold Machine.endEvent
    split
    · next freed =>
      refine State.serveCases_none fun j _ => ?_
      rcases idle with k | k
      · exact absurd (show (s.withdraw c).2 = true from freed) (by simp [k])
      · exact k j
    · rfl
  rw [State.cancelAt_eq, served]
  refine State.afterReached_of_deadlines (c := c) (by rw [record]; rfl) fun j hj => by rw [others j hj]

/-- Whatever room a cancellation frees and whoever takes it, the case stays CANCELLED as it was, and nothing but the records, the Action
Queue, the notices and the case's request changes. -/
theorem State.cancelAt_rests : (s.cancelAt c).restsAs c (s.caseAt c).cancelledRecord ∧
    CaseStep (s.endCase c).1 (s.cancelAt c) := by
  obtain ⟨-, others, record, -⟩ := State.endCase_ends hw hn
  have rests := State.endCase_rests hw hn
  have gone := CaseRecord.cancelledRecord_gone (s.caseAt c)
  have ended : CaseStep (s.endCase c).1 (endEvent (s.endCase c)) := CaseStep.endEvent (.refl _)
  have handled : Handled (s.endCase c).1 (endEvent (s.endCase c)) := Handled.endEvent (.refl rests.1.1)
  have rests' : (endEvent (s.endCase c)).restsAs c (s.caseAt c).cancelledRecord := State.restsAs.endEvent gone rests
  rw [State.cancelAt_eq]
  refine ⟨rests'.afterReached gone s, ended.trans (State.afterReached_handled rests'.1 fun j d hd => ?_).2⟩
  rcases (handled.records j).deadline d hd with h | h
  · by_cases hj : j = c
    · subst hj
      rw [(rests.gone gone).2.2] at h
      cases h
    · rw [others j hj] at h
      exact .inl h
  · exact .inr h

end Cancel

/-! ### The entries of a cancellation -/

/-- What O24 says of a cancellation that withdraws a RESTORE: the queue keeps `kept`, of the new entries those join that find room, and
the rest is owed. -/
structure CancelEntries (s t : State) (c : Nat) (r : CaseRecord) (g : Nat) (kept new : List ActionEntry) (room : Nat) : Prop where
  actions : t.actions = { s.actions with untaken := kept ++ new.take room }
  unblock : (t.caseAt c).owed.unblock = (r.owed.unblock || decide (room < new.length))
  withdraws : ∀ x, x ∈ (t.caseAt c).owed.withdraws ↔ x ∈ r.owed.withdraws ∨ (x = g ∧ room = 0 ∧ new.length = 2)

section Entries
variable {s : State} (hw : s.tableOk) {c : Nat} (hn : (s.caseAt c).state ≠ .free)
include hw hn

/-- A withdrawal that places no WITHDRAW: the UNBLOCK alone joins the queue, or is owed. -/
theorem CancelEntries.unblockAlone {g room : Nat} {kept : List ActionEntry}
    (actions : (s.withdraw c).1.actions = { s.actions with untaken := kept })
    (owed : ((s.withdraw c).1.caseAt c).owed = (s.caseAt c).owed) (hr : room = 256 - (s.actions.taken.length + kept.length)) :
    CancelEntries s (s.endCase c).1 c (s.caseAt c) g kept [.unblock ⟨c, (s.caseAt c).inst, 0⟩ (s.caseAt c).oldCard] room := by
  obtain ⟨queued, full⟩ := State.endCase_unblock hw hn
  have depth : (s.withdraw c).1.actions.depth = s.actions.taken.length + kept.length := by rw [actions]; rfl
  rcases Nat.eq_zero_or_pos room with none_ | some_
  · obtain ⟨hactions, howed⟩ := full (by omega)
    rw [none_]
    exact ⟨by rw [hactions, actions]; simp, by rw [howed, owed]; simp, fun x => by rw [howed, owed]; simp⟩
  · obtain ⟨hactions, howed⟩ := queued (by omega)
    have more : ¬room < 1 := by omega
    exact ⟨by rw [hactions, actions, List.take_of_length_le some_], by rw [howed, owed]; simp [more],
      fun x => by rw [howed, owed]; simp⟩

/-- A RESTORE taken or sent: its WITHDRAW goes before the UNBLOCK. -/
theorem CancelEntries.withdrawFirst {g room : Nat} (hr : room = 256 - s.actions.depth)
    (queued : s.actions.depth < 256 → ((s.withdraw c).1.caseAt c).owed = (s.caseAt c).owed ∧ (s.withdraw c).1.actions = { s.actions with
      untaken := s.actions.untaken ++ [.withdraw ⟨c, (s.caseAt c).inst, g⟩ (s.caseAt c).newCard] })
    (full : 256 ≤ s.actions.depth → (s.withdraw c).1.actions = s.actions ∧
      ((s.withdraw c).1.caseAt c).owed.unblock = (s.caseAt c).owed.unblock ∧
      ∀ x, x ∈ ((s.withdraw c).1.caseAt c).owed.withdraws ↔ x = g ∨ x ∈ (s.caseAt c).owed.withdraws) :
    CancelEntries s (s.endCase c).1 c (s.caseAt c) g s.actions.untaken
      [.withdraw ⟨c, (s.caseAt c).inst, g⟩ (s.caseAt c).newCard, .unblock ⟨c, (s.caseAt c).inst, 0⟩ (s.caseAt c).oldCard] room := by
  obtain ⟨placed, owes⟩ := State.endCase_unblock hw hn
  rcases Nat.lt_or_ge s.actions.depth 256 with space | none_
  · obtain ⟨owed, actions⟩ := queued space
    have depth : (s.withdraw c).1.actions.depth = s.actions.depth + 1 := by rw [actions]; simp [ActionUnit.depth, Nat.add_assoc]
    have some_ : room ≠ 0 := by omega
    rcases Nat.lt_or_ge 1 room with two | one
    · obtain ⟨hactions, howed⟩ := placed (by omega)
      have more : ¬room < 2 := by omega
      exact ⟨by rw [hactions, actions, List.take_of_length_le two]; simp, by rw [howed, owed]; simp [more],
        fun x => by rw [howed, owed]; simp [some_]⟩
    · obtain ⟨hactions, howed⟩ := owes (by omega)
      obtain rfl : room = 1 := by omega
      exact ⟨by rw [hactions, actions]; rfl, by rw [howed, owed]; simp, fun x => by rw [howed, owed]; simp⟩
  · obtain ⟨actions, unblock, withdraws⟩ := full none_
    obtain ⟨hactions, howed⟩ := owes (by rw [actions]; exact none_)
    obtain rfl : room = 0 := by omega
    exact ⟨by rw [hactions, actions]; simp, by rw [howed]; simp, fun x => by rw [howed, withdraws]; simp [or_comm]⟩

end Entries

/-- Where no other case owes an entry, and the case owed none, room a cancellation frees serves none: the UNBLOCK is in the queue, or the
queue is full. -/
theorem State.endCase_servable {s : State} (hw : s.tableOk) {c : Nat} (hn : (s.caseAt c).state ≠ .free)
    (idle : ∀ j, j ≠ c → (s.caseAt j).owes = false) (none_ : ((s.withdraw c).1.caseAt c).owed = ⟨[], false⟩) (j : Nat) :
    (s.endCase c).1.servable j = false := by
  obtain ⟨-, others, record, -⟩ := State.endCase_ends hw hn
  obtain ⟨queued, full⟩ := State.endCase_unblock hw hn
  by_cases hj : j = c
  · subst hj
    rcases Nat.lt_or_ge (s.withdraw j).1.actions.depth 256 with room | none'
    · refine State.servable_of_owes ?_
      have owed := (queued room).2.trans none_
      rw [record]
      simp [CaseRecord.owes, owed, CaseRecord.cancelledRecord, CaseRecord.cancelled, CaseRecord.clearOutstanding]
    · have depth : (s.endCase j).1.actions.depth = (s.withdraw j).1.actions.depth := by rw [(full none').1]
      unfold State.servable
      dsimp only
      split
      · exact Bool.eq_false_iff.mpr fun k => by rw [State.admitsOther_iff] at k; omega
      · rw [Bool.and_eq_false_iff]
        exact .inr (Bool.eq_false_iff.mpr fun k => by rw [State.admitsRestore_iff] at k; omega)
  · exact State.servable_of_owes (by rw [others j hj]; exact idle j hj)

/-- Settles O24, by where the withdrawn RESTORE stands and by the room for each entry. -/
theorem cancelCaseEndsTheCase : Obligations.CancelCaseEndsTheCase := by
  rintro s c r hw takes rfl
  have live : (s.caseAt c).state ≠ .free := takes.2.1
  refine ⟨fun taken => ?_, fun refused => ?_⟩
  · have cancellable : (s.caseAt c).cancellable = true :=
      (CaseRecord.cancellable_iff _).mpr (taken.imp_right fun ⟨st, none_⟩ => ⟨st, (CaseRecord.anyApplied_eq_false_iff _).mpr none_⟩)
    obtain ⟨-, others, ended, frame⟩ := State.endCase_ends hw live
    obtain ⟨⟨-, record⟩, step⟩ := State.cancelAt_rests hw live
    refine ⟨s.cancelAt c, ?_, ?_⟩
    · rw [exec_cancelCase, takes.answers (u := s.cancelAt c) (by unfold cancelNamed; exact if_pos cancellable)]
    have settle : (s.cancelAt c).settle = { s.settle with fifo := s.settle.fifo.filter (fun w => w.caseNo != c) } := by
      rw [step.frame, frame]
    refine ⟨by rw [record]; rfl, by rw [record]; rfl, by rw [record]; rfl, by rw [record]; rfl, by rw [settle], by rw [settle],
      by rw [record]; rfl, by rw [record]; rfl, by rw [record]; rfl, by rw [record]; rfl, by rw [record]; rfl,
      by rw [step.frame, frame], by rw [step.frame, frame], by rw [step.frame, frame], fun none_ => ?_,
      fun o kept new untaken room outstanding huntaken hkept hnew hroom hidle => ?_⟩
    · have withdrawn := State.withdraw_none none_
      have same : ((s.setCase c (s.caseAt c).clearOutstanding).caseAt c).owed = (s.caseAt c).owed := by
        rw [State.caseAt_setCase_same s hw.1]; rfl
      obtain ⟨queued, full⟩ := State.endCase_unblock hw live
      rw [withdrawn] at queued full
      rw [State.cancelAt_of_idle hw live (.inl (by rw [withdrawn]))]
      have kept (x) (h : (s.caseAt c).outstanding = x) : s.caseAt c = { s.caseAt c with outstanding := x } := by subst h; rfl
      refine ⟨others, by rw [frame], ?_, fun room => ?_, fun h => ?_⟩
      · rw [ended, kept _ none_]; rfl
      · obtain ⟨actions, owed⟩ := queued room
        exact ⟨owed.trans same, actions⟩
      · obtain ⟨actions, owed⟩ := full h
        exact ⟨owed.trans (congrArg (fun o : Owed => { o with unblock := true }) same), actions⟩
    · obtain ⟨-, -, -, dropped, standing⟩ :=
        restoreIsWithdrawnByWhereItStands s (s.withdraw c).1 c _ o (s.withdraw c).2 hw rfl live outstanding rfl
      suffices entries : ((s.withdraw c).2 = false ∨ ∀ j, (s.endCase c).1.servable j = false) ∧
          CancelEntries s (s.endCase c).1 c (s.caseAt c) o.generation kept new room by
        rw [State.cancelAt_of_idle hw live entries.1]
        exact ⟨others, by rw [frame], ended, entries.2.actions, entries.2.unblock, entries.2.withdraws⟩
      cases owed : (s.caseAt c).flags.issueOwed with
      | true =>
        obtain ⟨actions, same, idle⟩ := dropped owed
        obtain rfl : untaken = false := by rw [huntaken, owed]; rfl
        rw [if_neg (by simp)] at hkept
        subst hkept
        rw [owed] at hnew
        subst hnew
        exact ⟨.inl idle, .unblockAlone hw live actions same hroom⟩
      | false =>
        obtain ⟨removed, sent⟩ := standing owed
        rw [owed, Bool.not_false, Bool.true_and] at huntaken
        rw [owed, Bool.or_false] at hnew
        cases untaken with
        | true =>
          obtain ⟨actions, same, -⟩ := removed (List.any_eq_true.mp huntaken.symm)
          rw [if_pos rfl] at hkept hnew
          rw [← hkept] at actions
          subst hnew
          have entries := CancelEntries.unblockAlone hw live (g := o.generation) actions same hroom
          refine ⟨.inr fun j => ?_, entries⟩
          obtain ⟨none_, idle⟩ := hidle rfl
          exact State.endCase_servable hw live (fun i hi => idle i hi) (same.trans none_) j
        | false =>
          obtain ⟨idle, queued, full⟩ := sent (by simpa using huntaken.symm)
          rw [if_neg (by simp)] at hkept hnew
          subst hkept hnew
          exact ⟨.inl idle, .withdrawFirst hw live hroom queued fun h =>
            let ⟨actions, unblock, withdraws, _⟩ := full h
            ⟨actions, unblock, withdraws⟩⟩
  · have notTaken : ¬(s.caseAt c).cancellable = true := by
      rw [CaseRecord.cancellable_iff]
      rcases refused with h | h | h | ⟨h, applied⟩
      · simp [h]
      · simp [h]
      · simp [h]
      · rw [(CaseRecord.anyApplied_iff _).mpr applied]
        rcases h with h | h <;> simp [h]
    rw [exec_cancelCase, takes.answers (by unfold cancelNamed; exact if_neg notTaken)]

end Sys2Proof.Machine
end

section
/-! PROOFS. The completions (R91 to R99): those that write no result, the first results, and RECOMPUTE. -/

namespace Sys2Proof.Machine

/-! ### A completion that takes effect -/

/-- The part whose operation is no longer in flight. -/
def State.landed (s : State) : State := { s with settle := { s.settle with inFlight := none } }

theorem State.landed_caseAt (s : State) (c : Nat) : s.landed.caseAt c = s.caseAt c := rfl

/-- With no flip waiting, a completion that takes effect is the work of its mode and what follows it (R79). -/
theorem exec_settlementCompletion {s : State} {op : Operation} (flight : s.settle.inFlight = some op)
    (pending : s.policy.switchPending = false) (inst : (s.caseAt op.caseNo).inst = op.inst)
    (applies : op.mode.applies (s.caseAt op.caseNo) = true) (count : (s.caseAt op.caseNo).changeCount = op.changeCount) :
    exec .settlementCompletion s = .next ((endEvent (s.landed.completeBy op)).afterReached s) := by
  have live : (s.caseAt op.caseNo).state ≠ .free := fun free => by
    have active := SettleMode.applies_active applies
    simp [CaseState.active, free] at active
  have takes : s.landed.complete op = s.landed.completeBy op := by
    unfold State.complete
    dsimp only
    rw [State.landed_caseAt, if_neg (by simp [live, inst]), if_neg (by simp [applies]), if_neg (by simp [count])]
  have policy : ((endEvent (s.landed.completeBy op)).afterReached s).policy = s.policy := by
    rw [State.afterReached_policy]
    exact (CaseStep.endEvent (CaseStep.completeBy s.landed op)).policy
  show Host.Outcome.next s.completeOperation = _
  unfold State.completeOperation
  rw [flight]
  dsimp only
  rw [show State.complete { s with settle := { s.settle with inFlight := none } } op = _ from takes]
  exact congrArg _ (if_neg (by rw [policy, pending]; decide))

/-- A completion that leaves every other case, and sets no deadline, ends there. -/
theorem State.afterReached_kept {s t : State} {c : Nat} (others : s.sameCasesBut t c)
    (deadline : (t.caseAt c).deadline = (s.caseAt c).deadline) : t.afterReached s = t :=
  State.afterReached_same fun j => by
    by_cases hj : j = c
    · subst hj; exact deadline
    · rw [others j hj]

/-! ### Completions without a result -/

/-- The case held for some reasons, with its event (R92, R95). -/
theorem State.hold_holds {s : State} (hw : s.tableOk) (c : Nat) {r : CaseRecord} (hi : r.inst = (s.caseAt c).inst)
    (hh : r.hostTag = (s.caseAt c).hostTag) (reasons : HoldReasons) :
    s.sameCasesBut (s.landed.hold c r reasons) c ∧
    (s.landed.hold c r reasons).caseAt c = { r with state := .held, deadline := none, holdReasons := reasons } ∧
    s.landed.hold c r reasons = { s with
      settle := { s.settle with inFlight := none }, cases := (s.landed.hold c r reasons).cases
      notices := s.noticesAfter c (s.caseAt c) [.held reasons] } := by
  have record := State.caseAt_setCase_same s.landed hw.1 c { r with state := .held, deadline := none, holdReasons := reasons }
  refine ⟨fun j hj => State.caseAt_setCase_other s.landed hj _, record, ?_⟩
  have notices : (s.landed.hold c r reasons).notices = s.noticesAfter c (s.caseAt c) ([] ++ [.held reasons]) :=
    State.raise_noticesAfter (s := s) (u := s.landed.setCase c _) (details := []) rfl rfl record hi hh _
  exact notices ▸ rfl

/-- Settles O33: each mode's test fails, and what is left is the check of the basis or the hold. -/
theorem completionWithoutAResult : Obligations.CompletionWithoutAResult := by
  rintro s op r checked hw flight pending rfl inst applies count hchecked outcome houtcome
  have run {t : State} (completes : s.landed.completeBy op = (t, false)) (quiet : t.afterReached s = t) :
      exec .settlementCompletion s = .next t := by
    rw [exec_settlementCompletion flight pending inst applies count, completes]
    exact congrArg _ quiet
  have check (mode : op.mode = .early ∨ op.mode = .final) : (s.caseAt op.caseNo).checked op = checked := by
    rw [hchecked]
    unfold CaseRecord.checked Operation.mismatch
    rcases mode with h | h <;> rw [h]
  have holds {q : CaseRecord} (hi : q.inst = (s.caseAt op.caseNo).inst) (hh : q.hostTag = (s.caseAt op.caseNo).hostTag)
      (reasons : HoldReasons) (completes : s.landed.completeBy op = (s.landed.hold op.caseNo q reasons, false)) :
      outcome { q with state := .held, deadline := none, holdReasons := reasons } [.held reasons] := by
    obtain ⟨others, record, frame⟩ := State.hold_holds hw op.caseNo hi hh reasons
    exact (houtcome _ _).mpr ⟨_, run completes (State.afterReached_of_deadlines (by rw [record]) fun j hj => by rw [others j hj]),
      others, record, frame⟩
  refine ⟨fun early undecided => ?_, fun final held reasons hreasons => ?_, fun ⟨b, np, forced⟩ invalid => ?_⟩
  · have record := State.caseAt_setCase_same s.landed hw.1 op.caseNo checked
    have others : s.sameCasesBut (s.landed.setCase op.caseNo checked) op.caseNo := fun j hj => State.caseAt_setCase_other s.landed hj _
    refine (houtcome _ _).mpr ⟨s.landed.setCase op.caseNo checked, run ?_ ?_, others, record, rfl⟩
    · have writes : earlyWrites op (s.caseAt op.caseNo) = false := by
        unfold earlyWrites
        rw [check (.inl early)]
        rcases undecided with h | h | h | h <;> simp [h]
      unfold State.completeBy
      rw [early]
      dsimp only
      unfold State.completeEarly
      dsimp only
      rw [State.landed_caseAt, if_neg (by simp [writes]), check (.inl early)]
    · refine State.afterReached_kept others ?_
      rw [record, hchecked]
  · rw [hreasons]
    refine holds (by rw [hchecked]) (by rw [hchecked]) _ ?_
    unfold State.completeBy
    rw [final]
    dsimp only
    unfold State.completeFinal
    dsimp only
    rw [State.landed_caseAt, check (.inr final), if_pos (by simpa using held)]
    rfl
  · refine holds rfl rfl _ ?_
    unfold State.completeBy
    rw [forced]
    dsimp only
    unfold State.completeForced
    rw [if_pos invalid]
    rfl

/-! ### The record a result is written to -/

theorem SlotStatuses.ext_get {t t' : SlotStatuses} (h : ∀ slot, t.get slot = t'.get slot) : t = t' := by
  obtain ⟨a, b, c, d⟩ := t
  obtain ⟨a', b', c', d'⟩ := t'
  exact congr (congr (congrArg₂ SlotStatuses.mk (h 0) (h 1)) (h 2)) (h 3)

/-- The record a completion writes is the one its operation gives (R94, R97, R98, R112). -/
theorem CaseRecord.writtenBy_eq {r w : CaseRecord} {op : Operation} (h : r.writtenBy op w) : w = r.settledBy op := by
  obtain ⟨record, statuses⟩ := h
  have grants : w.grantStatus = r.grantStatus.afterGrants op.grants := by
    refine SlotStatuses.ext_get fun slot => ?_
    rw [statuses slot, SlotStatuses.get_afterGrants]
    simp only [carriesSlot_iff]
  rw [record, grants]
  unfold CaseRecord.settledBy Operation.mismatch Operation.isForced Result.clipped
  cases op.mode <;> rfl

/-- The reconcile step over a result just written, its event raised (R97, R99). -/
theorem State.written_reads {s : State} (hw : s.tableOk) {c : Nat} {w : CaseRecord} (event : EventDetail) :
    ReadsAs s ((s.landed.setCase c w).raiseEvent c event) c w [event] where
  record := State.caseAt_setCase_same s.landed hw.1 c w
  actions := rfl
  notices := State.raise_noticesAfter (s := s) (u := s.landed.setCase c w) (details := []) rfl rfl
    (State.caseAt_setCase_same s.landed hw.1 c w) rfl rfl _
  time := rfl

theorem State.written_others {s : State} {c : Nat} (w : CaseRecord) (event : EventDetail) :
    s.sameCasesBut ((s.landed.setCase c w).raiseEvent c event) c := fun _ hj => State.caseAt_setCase_other s.landed hj w

theorem State.written_table {s : State} (hw : s.tableOk) {c : Nat} (hn : (s.caseAt c).state ≠ .free) {w : CaseRecord}
    (live : w.state ≠ .free) (event : EventDetail) : ((s.landed.setCase c w).raiseEvent c event).tableOk :=
  State.setCase_tableOk (s := s.landed) hw (hw.live_lt hn) fun k => absurd k live

/-! ### The first result -/

/-- Where a completion writes a first result (R91, R93, R94, R95). -/
def Operation.settles (op : Operation) (r : CaseRecord) : Prop :=
  match op.mode with
  | .early => op.rowInvalid = false ∧ op.evidence.status = .confirmed ∧ op.evidence.missing = 0 ∧
      (r.flags.held || op.evidence.mismatch) = false
  | .final => op.rowInvalid = false ∧ (r.flags.held || op.evidence.mismatch) = false
  | .forced _ _ => op.rowInvalid = false
  | .recompute => False

theorem CaseRecord.checked_held {r : CaseRecord} {op : Operation} (h : (r.flags.held || op.evidence.mismatch) = false) :
    (r.checked op).flags.held = false := by
  rw [Bool.or_eq_false_iff] at h
  obtain ⟨flags, mismatch⟩ := h
  unfold CaseFlags.held at flags
  simp only [Bool.or_eq_false_iff] at flags
  obtain ⟨⟨⟨conflict, before⟩, breach⟩, lost⟩ := flags
  unfold CaseRecord.checked CaseFlags.held Operation.mismatch
  dsimp only
  rw [conflict, before, breach, lost]
  cases op.mode <;> simp [mismatch]

/-- A completion that settles writes its first result. -/
theorem State.completeBy_settles {s : State} {op : Operation} (h : op.settles (s.caseAt op.caseNo)) :
    s.completeBy op = s.writeFirst op := by
  unfold Operation.settles at h
  unfold State.completeBy
  cases mode : op.mode with
  | early =>
    rw [mode] at h
    obtain ⟨valid, confirmed, missing, unheld⟩ := h
    have writes : earlyWrites op (s.caseAt op.caseNo) = true := by
      unfold earlyWrites
      simp [valid, confirmed, missing, CaseRecord.checked_held unheld]
    exact if_pos writes
  | final =>
    rw [mode] at h
    obtain ⟨valid, unheld⟩ := h
    exact if_neg (by simp [valid, CaseRecord.checked_held unheld])
  | forced b np =>
    rw [mode] at h
    exact if_neg (by simpa using h)
  | recompute => rw [mode] at h; exact h.elim

/-- A first result is written in COLLECTING or HELD (R76). -/
theorem Operation.settles.state {op : Operation} {r : CaseRecord} (h : op.settles r) (applies : op.mode.applies r = true) :
    r.state = .collecting ∨ r.state = .held := by
  unfold Operation.settles at h
  unfold SettleMode.applies at applies
  cases mode : op.mode with
  | early => rw [mode] at applies; exact .inl (by simpa using applies)
  | final => rw [mode] at applies; exact .inl (by simpa using applies)
  | forced b np => rw [mode] at applies; simpa using applies
  | recompute => rw [mode] at h; exact h.elim

/-- A case that is not ISSUED has nothing outstanding (R117). -/
theorem CaseRecord.lifeOk.none_of_state {r : CaseRecord} (h : r.lifeOk) (hs : r.state ≠ .issued) : r.outstanding = none := by
  cases k : r.outstanding with
  | none => rfl
  | some o => exact absurd (h.outstanding o k).1 hs

/-- Settles O32: a settling completion writes from a case with nothing outstanding, so that the reconcile step is the fresh
one. -/
theorem firstResultIsWritten : Obligations.FirstResultIsWritten := by
  refine ⟨?_, fun op => ⟨fun m hm => ?_, fun row hm hrow => ?_, fun basis noPasses forced => ?_, fun unforced => ?_⟩⟩
  · rintro s op r written hw hs flight pending rfl inst applies count settles hwritten
    obtain rfl := CaseRecord.writtenBy_eq hwritten
    replace settles : op.settles (s.caseAt op.caseNo) := by
      unfold Operation.settles
      cases mode : op.mode <;> rw [mode] at settles <;> exact settles
    have state := settles.state applies
    have live : (s.caseAt op.caseNo).state ≠ .free := by rcases state with h | h <;> simp [h]
    have none_ : (s.caseAt op.caseNo).outstanding = none :=
      (hs.at op.caseNo).none_of_state (by rcases state with h | h <;> simp [h])
    have reads := State.written_reads hw (c := op.caseNo) (w := (s.caseAt op.caseNo).settledBy op)
      (.settled op.result.status op.result.target)
    have table := State.written_table hw live (w := (s.caseAt op.caseNo).settledBy op) live (.settled op.result.status op.result.target)
    obtain ⟨others, frame⟩ := State.reconcile_frame table (by rw [reads.record]; exact live) true
    have fresh := State.reconcile_fresh (r := (s.caseAt op.caseNo).settledBy op) table live reads none_ ((hs.at op.caseNo).issueOwed none_) true
    have others' : s.sameCasesBut _ op.caseNo := fun j hj => (others j hj).trans (State.written_others _ _ j hj)
    have may : mayIssue ((s.caseAt op.caseNo).settledBy op).state true = true ∧ mayCollect ((s.caseAt op.caseNo).settledBy op).state true = true := by
      rcases state with h | h <;> simp [CaseRecord.settledBy, h, mayIssue, mayCollect]
    refine ⟨_, _, ?_, State.reachedTaken_afterReached (RecordStep.reconcile table (by rw [reads.record]; exact live) true).table
      (by rw [frame]; rfl) others', others', frame, fresh.congr (by simp [may.1]) (by simp [may.2])⟩
    rw [exec_settlementCompletion flight pending inst applies count, State.completeBy_settles (s := s.landed) settles]
    unfold State.writeFirst
    rw [State.landed_caseAt, State.endEvent_reconcile_of_none (by rw [reads.record]; exact none_)]
  · unfold Operation.money
    rw [hm]
  · unfold Operation.money
    rw [hm, hrow]
    rfl
  · have result : op.result = purseResult .forced basis op.money op.evidence.feeWaived := by unfold Operation.result; rw [forced]
    refine ⟨result, by rw [result]; rfl, by rw [result]; rfl, ?_⟩
    unfold Operation.grants Operation.noPasses
    rw [forced]
    rfl
  · have result : op.result = purseResult op.evidence.status (op.evidence.basis op.money.gapPolicy) op.money op.evidence.feeWaived := by
      unfold Operation.result
      cases mode : op.mode with
      | forced b np => exact absurd mode (unforced b np)
      | _ => rfl
    refine ⟨result, by rw [result]; rfl, by rw [result]; rfl, ?_⟩
    unfold Operation.grants Operation.noPasses
    cases mode : op.mode with
    | forced b np => exact absurd mode (unforced b np)
    | _ => rfl

end Sys2Proof.Machine
end

section
/-! PROOFS. The reconcile step that withdraws first (R127 step 1), and the RECOMPUTE completion (R98, R99). -/

namespace Sys2Proof.Machine

/-! ### The withdrawal of the reconcile step -/

/-- A withdrawal reads the case's record and the Action Queue alone. -/
theorem State.withdraw_congr {s v : State} (hc : v.cases = s.cases) (ha : v.actions = s.actions) (c : Nat) :
    (v.withdraw c).1.cases = (s.withdraw c).1.cases ∧ (v.withdraw c).1.actions = (s.withdraw c).1.actions ∧
    (v.withdraw c).2 = (s.withdraw c).2 := by
  have record := State.caseAt_congr hc c
  have cleared : (v.setCase c (v.caseAt c).clearOutstanding).cases = (s.setCase c (s.caseAt c).clearOutstanding).cases := by
    rw [State.setCase_cases, State.setCase_cases, hc, record]
  have record' := State.caseAt_congr cleared c
  have admits : (v.setCase c (v.caseAt c).clearOutstanding).admitsOther = (s.setCase c (s.caseAt c).clearOutstanding).admitsOther := by
    unfold State.admitsOther
    rw [State.setCase_actions, State.setCase_actions, ha]
  unfold State.withdraw State.placeWithdraw State.refOfCase
  dsimp only
  rw [admits, record', record, ha]
  cases (s.caseAt c).outstanding with
  | none => exact ⟨record ▸ cleared, ha, rfl⟩
  | some o =>
    dsimp only
    split
    · exact ⟨record ▸ cleared, ha, rfl⟩
    · split
      · exact ⟨record ▸ cleared, rfl, rfl⟩
      · split
        · exact ⟨record ▸ cleared, by rw [State.enqueue_actions, State.enqueue_actions]; simp [ha], rfl⟩
        · exact ⟨congrArg (fun m => tableSet CaseRecord.reset m c _)
            (show (v.setCase c (s.caseAt c).clearOutstanding).cases = _ from record ▸ cleared), ha, rfl⟩

/-- Where the outstanding action differs from what is desired, the step withdraws it and goes on with nothing outstanding (R127). -/
theorem State.reconcile_withdraws {v : State} (hw : v.tableOk) {c : Nat} (differs : (v.caseAt c).differs = true) (b : Bool) :
    v.reconcile c b = (((v.withdraw c).1.reconcile c b).1, (v.withdraw c).2) := by
  have first : v.reconcileWithdraw c = v.withdraw c := if_pos differs
  obtain ⟨none_, -, state, -⟩ := State.withdraw_caseAt hw (c := c)
  rw [State.reconcile_of_none none_, state]
  unfold State.reconcile
  dsimp only
  rw [first]

theorem CaseRecord.differs_of {r : CaseRecord} {o : Outstanding} (h : r.outstanding = some o)
    (hd : o.credit ≠ r.desiredCredit ∨ o.grants ≠ r.desiredGrants) : r.differs = true := by
  unfold CaseRecord.differs
  rw [h]
  rcases hd with k | k <;> simp [k]

/-- After the step of a case that owed nothing, the arbiter finds nothing of it to serve: a RESTORE it owes found no room. -/
theorem State.reconciledFresh.unservable {s t : State} {c : Nat} {r : CaseRecord} {details : List EventDetail} {issue collect : Prop}
    (h : s.reconciledFresh t c r details issue collect) (owed : r.owed = ⟨[], false⟩) (issueOwed : r.flags.issueOwed = false) :
    t.servable c = false := by
  have owes : (t.caseAt c).owed = ⟨[], false⟩ := by rw [h.kept]; exact owed
  unfold State.servable
  dsimp only
  rw [if_neg (by simp [owes]), Bool.and_eq_false_iff]
  by_cases stays : (r.desires = true ∧ ¬issue) ∨ (r.desires = false ∧ ¬collect)
  · rw [(h.stays stays).1]
    exact .inl issueOwed
  · cases desired : r.desires with
    | false =>
      obtain ⟨-, -, -, clear, -⟩ := h.collected (by_contra fun k => stays (.inr ⟨desired, k⟩)) desired
      exact .inl clear
    | true =>
      have may : issue := by_contra fun k => stays (.inl ⟨desired, k⟩)
      rcases Nat.lt_or_ge r.generation 8191 with left | used
      · rcases Nat.lt_or_ge s.actions.depth 192 with room | full
        · exact .inl (h.queued may desired left room).1
        · refine .inr (Bool.eq_false_iff.mpr fun k => ?_)
          rw [State.admitsRestore_iff, (h.owed may desired left full).2.2] at k
          omega
      · obtain ⟨-, -, -, clear, -⟩ := h.exhausted may desired used
        exact .inl clear

/-- A withdrawal that frees room leaves what the case owes (R123). -/
theorem State.withdraw_freed {s : State} (hw : s.tableOk) {c : Nat} (hn : (s.caseAt c).state ≠ .free) {o : Outstanding}
    (outstanding : (s.caseAt c).outstanding = some o) (freed : (s.withdraw c).2 = true) :
    ((s.withdraw c).1.caseAt c).owed = (s.caseAt c).owed := by
  obtain ⟨-, -, -, dropped, standing⟩ :=
    restoreIsWithdrawnByWhereItStands s (s.withdraw c).1 c _ o (s.withdraw c).2 hw rfl hn outstanding rfl
  cases owed : (s.caseAt c).flags.issueOwed with
  | true => exact (dropped owed).2.1
  | false =>
    obtain ⟨removed, sent⟩ := standing owed
    by_cases h : ∃ e ∈ s.actions.untaken, e.isRestoreOf ⟨c, (s.caseAt c).inst, o.generation⟩ = true
    · exact (removed h).2.1
    · refine absurd freed ?_
      rw [(sent fun e he => Bool.eq_false_iff.mpr fun k => h ⟨e, he, k⟩).1]
      decide

/-- R127 of an ISSUED case whose outstanding action differs from what is desired: `z` is the part as its record stands, `v` the same part
with some events raised, and `w` is `z` with the action withdrawn. -/
theorem State.reconcile_after_withdrawal {z v w : State} {c : Nat} {freed : Bool} {details : List EventDetail} {o : Outstanding}
    (hz : z.tableOk) (hc : v.cases = z.cases) (ha : v.actions = z.actions) (ht : v.time = z.time)
    (hn : v.notices = z.noticesAfter c (z.caseAt c) details) (issued : (z.caseAt c).state = .issued)
    (outstanding : (z.caseAt c).outstanding = some o)
    (differs : o.credit ≠ (z.caseAt c).desiredCredit ∨ o.grants ≠ (z.caseAt c).desiredGrants) (withdrawn : (w, freed) = z.withdraw c) :
    ∃ u : State, (∀ b, v.reconcile c b = (u, freed)) ∧ u.tableOk ∧ w.sameCasesBut u c ∧
      u = { v with cases := u.cases, actions := u.actions, notices := u.notices } ∧
      w.reconciledFresh u c (w.caseAt c) details True True ∧
      (freed = true → (z.caseAt c).owed = ⟨[], false⟩ → u.servable c = false) := by
  have live : (z.caseAt c).state ≠ .free := by simp [issued]
  have hv : v.tableOk := (RecordStep.of_cases hz hc).table
  have record : v.caseAt c = z.caseAt c := State.caseAt_congr hc c
  have hw : w.tableOk := by
    have h := (RecordStep.withdraw hz live).table
    rwa [← withdrawn] at h
  obtain ⟨-, frame, cleared⟩ := State.withdraw_frame hz c
  obtain ⟨none_, issueOwed, state, -⟩ := State.withdraw_caseAt hz (c := c)
  obtain ⟨wcases, wactions, wfreed⟩ := State.withdraw_congr hc ha c
  have kept : freed = true → (w.caseAt c).owed = (z.caseAt c).owed := fun h => by
    have same := State.withdraw_freed hz live outstanding (by rw [← withdrawn]; exact h)
    rwa [← withdrawn] at same
  rw [← withdrawn] at frame cleared none_ issueOwed state wcases wactions wfreed
  dsimp only at frame cleared none_ issueOwed state wcases wactions wfreed
  obtain ⟨-, vframe, -⟩ := State.withdraw_frame hv c
  have table : (v.withdraw c).1.tableOk := (RecordStep.withdraw hv (by rw [record]; exact live)).table
  have wrecord : (v.withdraw c).1.caseAt c = w.caseAt c := State.caseAt_congr wcases c
  have wlive : (w.caseAt c).state ≠ .free := by rw [state]; exact live
  have reads : ReadsAs w (v.withdraw c).1 c (w.caseAt c) details :=
    ⟨wrecord, wactions, by
      rw [vframe, cleared, frame]
      exact hn.trans rfl, by rw [vframe, frame]; exact ht⟩
  have reconciles (b : Bool) : v.reconcile c b = (((v.withdraw c).1.reconcile c false).1, freed) := by
    rw [State.reconcile_withdraws hv (by rw [record]; exact CaseRecord.differs_of outstanding differs), wfreed]
    have same : mayIssue (w.caseAt c).state b = mayIssue (w.caseAt c).state false ∧ mayCollect (w.caseAt c).state b = mayCollect (w.caseAt c).state false := by
      rw [state, issued]; exact ⟨rfl, rfl⟩
    rw [State.reconcile_of_none (by rw [wrecord]; exact none_), State.reconcile_of_none (by rw [wrecord]; exact none_), wrecord, same.1, same.2]
  obtain ⟨others, uframe⟩ := State.reconcile_frame table (by rw [wrecord]; exact wlive) false
  have fresh := State.reconcile_fresh table wlive reads none_ issueOwed false
  refine ⟨_, reconciles, (RecordStep.reconcile table (by rw [wrecord]; exact wlive) false).table, fun j hj => ?_, ?_,
    fresh.congr (by rw [state, issued]; simp [mayIssue]) (by rw [state, issued]; simp [mayCollect]), fun h owed => ?_⟩
  · rw [others j hj, State.caseAt_congr wcases]
  · rw [uframe, vframe]
  · exact fresh.unservable ((kept h).trans owed) issueOwed

/-- An event of one case after which room is served by none ends there. -/
theorem endEvent_of_unservable {u : State} {freed : Bool} (h : freed = false ∨ ∀ j, u.servable j = false) : endEvent (u, freed) = u := by
  unfold Machine.endEvent
  dsimp only
  split
  · next k =>
    rcases h with h | h
    · exact absurd k (by simp [h])
    · exact State.serveCases_none fun j _ => h j
  · rfl

/-- Room that no other case waits for serves none, where the case itself has nothing that would be served. -/
theorem State.unservable_of {z u : State} {c : Nat} {freed : Bool} (others : z.sameCasesBut u c)
    (idle : freed = false ∨ ((z.caseAt c).owed = ⟨[], false⟩ ∧ ∀ j, j ≠ c → (z.caseAt j).owes = false))
    (h : freed = true → (z.caseAt c).owed = ⟨[], false⟩ → u.servable c = false) :
    freed = false ∨ ∀ j, u.servable j = false := by
  cases hf : freed with
  | false => exact .inl rfl
  | true =>
    obtain ⟨owed, rest⟩ := idle.resolve_left (by simp [hf])
    refine .inr fun j => ?_
    by_cases hj : j = c
    · subst hj; exact h hf owed
    · exact State.servable_of_owes (by rw [others j hj]; exact rest j hj)

theorem NoticeUnit.raise_untaken {n : NoticeUnit} (room : n.taken.length + n.untaken.length < 64) (e : CaseEvent) :
    (n.raise e).untaken = n.untaken ++ [e] := by
  unfold NoticeUnit.raise
  rw [if_pos (show n.taken.length + n.untaken.length < Config.eventQueue from room)]
  rfl

/-! ### RECOMPUTE -/

/-- The part once a RECOMPUTE has written its result (R98). -/
def State.resultWritten (s : State) (op : Operation) : State :=
  s.landed.setCase op.caseNo ((s.caseAt op.caseNo).settledBy op)

/-- The change of the target (R98). -/
def Operation.adjustment (op : Operation) (r : CaseRecord) : EventDetail := .adjusted (op.result.target - r.target)

/-- Whether a RECOMPUTE changes the target or the grants (R98). -/
def Operation.adjusts (op : Operation) (r : CaseRecord) : Prop := op.result.target ≠ r.target ∨ op.grants ≠ r.wanted

/-- The part once a RECOMPUTE has written its result and raised ADJUSTED (R98). -/
def State.adjustedBy (s : State) (op : Operation) : State :=
  (s.resultWritten op).raiseEvent op.caseNo (op.adjustment (s.caseAt op.caseNo))

/-- What a completion that takes effect leaves (R79). -/
def State.completed (s : State) (op : Operation) : State := (endEvent (s.landed.completeBy op)).afterReached s

section Recompute
variable {s : State} {op : Operation} (hw : s.tableOk) (live : (s.caseAt op.caseNo).state ≠ .free) (recompute : op.mode = .recompute)

theorem State.resultWritten_others : s.sameCasesBut (s.resultWritten op) op.caseNo := fun _ hj => State.caseAt_setCase_other s.landed hj _

theorem State.adjustedBy_others : s.sameCasesBut (s.adjustedBy op) op.caseNo := State.resultWritten_others

section
include hw

theorem State.resultWritten_caseAt : (s.resultWritten op).caseAt op.caseNo = (s.caseAt op.caseNo).settledBy op :=
  State.caseAt_setCase_same s.landed hw.1 op.caseNo _

theorem State.adjustedBy_reads :
    ReadsAs s (s.adjustedBy op) op.caseNo ((s.caseAt op.caseNo).settledBy op) [op.adjustment (s.caseAt op.caseNo)] :=
  State.written_reads hw _

include live

theorem State.resultWritten_step : RecordStep s.landed (s.resultWritten op) :=
  .setCase (s := s.landed) hw live ⟨Iff.rfl, rfl, rfl, rfl, rfl⟩

theorem State.adjustedBy_step : RecordStep s.landed (s.adjustedBy op) :=
  (State.resultWritten_step hw live).trans (.of_cases (State.resultWritten_step hw live).table rfl)

end

include recompute

/-- A RECOMPUTE whose target and grants are unchanged writes its result alone (R98). -/
theorem State.completeBy_unchanged (same : ¬op.adjusts (s.caseAt op.caseNo)) :
    s.landed.completeBy op = (s.resultWritten op, false) := by
  unfold State.completeBy
  rw [recompute]
  exact if_neg same

/-- A changed one raises ADJUSTED and runs the reconcile step (R98, R99). -/
theorem State.completeBy_changed (changed : op.adjusts (s.caseAt op.caseNo)) :
    s.landed.completeBy op = (s.adjustedBy op).reconcile op.caseNo true := by
  unfold State.completeBy
  rw [recompute]
  exact if_pos changed

include hw

theorem State.completed_unchanged (same : ¬op.adjusts (s.caseAt op.caseNo)) : s.completed op = s.resultWritten op := by
  unfold State.completed
  rw [State.completeBy_unchanged recompute same, endEvent_of_unservable (.inl rfl)]
  refine State.afterReached_kept State.resultWritten_others ?_
  rw [State.resultWritten_caseAt hw]
  rfl

/-- Where the outstanding action carries what is desired, ADJUSTED and the overpaid amount are all (R127, R128). -/
theorem State.completed_carries (changed : op.adjusts (s.caseAt op.caseNo)) {o : Outstanding}
    (outstanding : (s.caseAt op.caseNo).outstanding = some o) (table : (s.adjustedBy op).tableOk)
    (credit : o.credit = ((s.caseAt op.caseNo).settledBy op).desiredCredit)
    (grants : o.grants = ((s.caseAt op.caseNo).settledBy op).desiredGrants) :
    s.completed op = (s.adjustedBy op).setOverpaid op.caseNo ∧ s.sameCasesBut (s.completed op) op.caseNo ∧
    (s.completed op).caseAt op.caseNo = { (s.caseAt op.caseNo).settledBy op with
      overpaid := max ((s.caseAt op.caseNo).applied - op.result.target - (s.caseAt op.caseNo).unpaid) 0 } := by
  have reads := State.adjustedBy_reads hw (op := op)
  have record := State.caseAt_setOverpaid table op.caseNo
  rw [reads.record] at record
  have others : s.sameCasesBut ((s.adjustedBy op).setOverpaid op.caseNo) op.caseNo := fun j hj =>
    (State.caseAt_setCase_other (s.adjustedBy op) hj _).trans (State.adjustedBy_others j hj)
  have done : s.completed op = (s.adjustedBy op).setOverpaid op.caseNo := by
    unfold State.completed
    rw [State.completeBy_changed recompute changed, State.reconcile_of_carries (o := o) (by rw [reads.record]; exact outstanding)
      (by rw [reads.record]; exact credit) (by rw [reads.record]; exact grants), endEvent_of_unservable (.inl rfl)]
    refine State.afterReached_kept others ?_
    rw [record]
    rfl
  rw [done]
  exact ⟨rfl, others, record⟩

include live

/-- With nothing outstanding, the reconcile step ends as for a fresh case (R127, R128). -/
theorem State.completed_fresh (changed : op.adjusts (s.caseAt op.caseNo)) (none_ : (s.caseAt op.caseNo).outstanding = none)
    (issueOwed : (s.caseAt op.caseNo).flags.issueOwed = false) :
    ∃ u : State, s.reachedTaken u (s.completed op) op.caseNo ∧ s.sameCasesBut u op.caseNo ∧
      u = { s.landed with cases := u.cases, actions := u.actions, notices := u.notices } ∧
      s.reconciledFresh u op.caseNo ((s.caseAt op.caseNo).settledBy op) [op.adjustment (s.caseAt op.caseNo)]
        (mayIssue (s.caseAt op.caseNo).state true = true) (mayCollect (s.caseAt op.caseNo).state true = true) := by
  have reads := State.adjustedBy_reads hw (op := op)
  have table := (State.adjustedBy_step hw live).table
  have live' : ((s.adjustedBy op).caseAt op.caseNo).state ≠ .free := by rw [reads.record]; exact live
  obtain ⟨others, frame⟩ := State.reconcile_frame table live' true
  have apart : s.sameCasesBut ((s.adjustedBy op).reconcile op.caseNo true).1 op.caseNo := fun j hj =>
    (others j hj).trans (State.adjustedBy_others j hj)
  have done : s.completed op = ((s.adjustedBy op).reconcile op.caseNo true).1.afterReached s := by
    unfold State.completed
    rw [State.completeBy_changed recompute changed, State.endEvent_reconcile_of_none (by rw [reads.record]; exact none_)]
  rw [done]
  exact ⟨_, State.reachedTaken_afterReached (RecordStep.reconcile table live' true).table (by rw [frame]; rfl) apart, apart, frame,
    State.reconcile_fresh (r := (s.caseAt op.caseNo).settledBy op) table live reads none_ issueOwed true⟩

/-- An outstanding action that differs is withdrawn first (R127 step 1). -/
theorem State.completed_withdraws (changed : op.adjusts (s.caseAt op.caseNo)) {o : Outstanding}
    (outstanding : (s.caseAt op.caseNo).outstanding = some o) (issued : (s.caseAt op.caseNo).state = .issued)
    (differs : o.credit ≠ ((s.caseAt op.caseNo).settledBy op).desiredCredit ∨ o.grants ≠ ((s.caseAt op.caseNo).settledBy op).desiredGrants)
    {w : State} {freed : Bool} (withdrawn : (w, freed) = (s.setCase op.caseNo ((s.caseAt op.caseNo).settledBy op)).withdraw op.caseNo)
    (idle : freed = false ∨ ((s.caseAt op.caseNo).owed = ⟨[], false⟩ ∧ ∀ j, j ≠ op.caseNo → (s.caseAt j).owes = false)) :
    ∃ u : State, s.reachedTaken u (s.completed op) op.caseNo ∧ w.sameCasesBut u op.caseNo ∧
      u = { w with settle := s.landed.settle, cases := u.cases, actions := u.actions, notices := u.notices } ∧
      w.reconciledFresh u op.caseNo (w.caseAt op.caseNo) [op.adjustment (s.caseAt op.caseNo)] True True := by
  have reads := State.adjustedBy_reads hw (op := op)
  have record := State.caseAt_setCase_same s hw.1 op.caseNo ((s.caseAt op.caseNo).settledBy op)
  have others : s.sameCasesBut (s.setCase op.caseNo ((s.caseAt op.caseNo).settledBy op)) op.caseNo := fun j hj =>
    State.caseAt_setCase_other s hj _
  have table : (s.setCase op.caseNo ((s.caseAt op.caseNo).settledBy op)).tableOk :=
    (RecordStep.setCase (r := (s.caseAt op.caseNo).settledBy op) hw live ⟨Iff.rfl, rfl, rfl, rfl, rfl⟩).table
  obtain ⟨wothers, wframe, -⟩ := State.withdraw_frame table op.caseNo
  rw [← withdrawn] at wothers wframe
  obtain ⟨u, reconciles, utable, uothers, uframe, fresh, served⟩ := State.reconcile_after_withdrawal (v := s.adjustedBy op)
    (details := [op.adjustment (s.caseAt op.caseNo)]) table rfl rfl rfl (by rw [record]; exact reads.notices)
    (by rw [record]; exact issued) (by rw [record]; exact outstanding) (by rw [record]; exact differs) withdrawn
  have apart : (s.setCase op.caseNo ((s.caseAt op.caseNo).settledBy op)).sameCasesBut u op.caseNo := fun j hj =>
    (uothers j hj).trans (wothers j hj)
  have apart' : s.sameCasesBut u op.caseNo := fun j hj => (apart j hj).trans (others j hj)
  have quiet := State.unservable_of apart (by
    rw [record]
    exact idle.imp_right fun ⟨owed, rest⟩ => ⟨owed, fun j hj => by rw [others j hj]; exact rest j hj⟩) served
  have done : s.completed op = u.afterReached s := by
    unfold State.completed
    rw [State.completeBy_changed recompute changed, reconciles true, endEvent_of_unservable quiet]
  rw [done]
  refine ⟨u, State.reachedTaken_afterReached utable (by rw [uframe]; rfl) apart', uothers, ?_, fresh⟩
  rw [uframe, show w = _ from wframe]
  rfl

/-- Whatever a RECOMPUTE changes, its completion is work on actions over the record it writes. -/
theorem State.completed_handled :
    Handled (s.resultWritten op) (s.completed op) ∧ CaseStep s.landed (s.completed op) ∧
    (op.adjusts (s.caseAt op.caseNo) → Handled (s.adjustedBy op) (s.completed op)) := by
  have wf := (State.resultWritten_step hw live (op := op)).table.1
  have raised : Handled (s.resultWritten op) (s.adjustedBy op) := Handled.raiseEvent wf op.caseNo _
  have changed (h : op.adjusts (s.caseAt op.caseNo)) : Handled (s.adjustedBy op) (s.landed.completeBy op).1 := by
    rw [State.completeBy_changed recompute h]
    exact Handled.reconcile raised.wf true
  have both : Handled (s.resultWritten op) (s.landed.completeBy op).1 ∧ RecordStep s.landed (s.landed.completeBy op).1 := by
    by_cases h : op.adjusts (s.caseAt op.caseNo)
    · have event := State.adjustedBy_step hw live (op := op)
      refine ⟨raised.trans (changed h), ?_⟩
      rw [State.completeBy_changed recompute h]
      exact event.trans (.reconcile event.table (event.live live) true)
    · rw [State.completeBy_unchanged recompute h]
      exact ⟨.refl wf, State.resultWritten_step hw live⟩
  obtain ⟨handled, record⟩ := both
  have ended := Handled.endEvent handled
  have deadlines : ∀ j d, ((endEvent (s.landed.completeBy op)).caseAt j).deadline = some d →
      (s.caseAt j).deadline = some d ∨ d.kind ≠ .windowEnd := fun j d hd => by
    refine ((ended.records j).deadline d hd).imp_left fun h => ?_
    by_cases hj : j = op.caseNo
    · subst hj
      rw [State.resultWritten_caseAt hw] at h
      exact h
    · rwa [State.resultWritten_others j hj] at h
  obtain ⟨after, step⟩ := State.afterReached_handled (RecordStep.endEvent record).table deadlines
  exact ⟨ended.trans after, (CaseStep.endEvent (CaseStep.completeBy s.landed op)).trans step,
    fun h => (Handled.endEvent (changed h)).trans after⟩

end Recompute

/-- Settles O34: an unchanged result leaves all as it is; a changed one runs the reconcile step, by what is outstanding. -/
theorem recomputeWritesAResult : Obligations.RecomputeWritesAResult := by
  rintro s op r written c change hw hs rfl flight pending rfl inst recompute state forced count hwritten rfl
  obtain rfl := CaseRecord.writtenBy_eq hwritten
  simp only [List.mem_cons, List.not_mem_nil, or_false] at state
  have live : (s.caseAt op.caseNo).state ≠ .free := fun h => by simp [h] at state
  have applies : op.mode.applies (s.caseAt op.caseNo) = true := by
    rw [recompute]
    rcases state with h | h | h <;> simp [SettleMode.applies, h, forced]
  obtain ⟨handled, step, adjusted⟩ := State.completed_handled hw live recompute
  have kept := (handled.records op.caseNo).kept
  rw [State.resultWritten_caseAt hw] at kept
  have check : ((s.caseAt op.caseNo).settledBy op).flags.mismatch = ((s.caseAt op.caseNo).flags.mismatch || op.evidence.mismatch) := by
    unfold CaseRecord.settledBy Operation.mismatch
    rw [recompute]
  have settle : (s.completed op).settle = s.landed.settle := by rw [step.frame]
  have reads := State.adjustedBy_reads hw (op := op)
  refine ⟨s.completed op, exec_settlementCompletion flight pending inst applies count, by rw [kept]; rfl, by rw [kept]; rfl,
    by rw [kept]; exact check, by rw [kept]; rfl, by rw [kept]; rfl, by rw [kept]; rfl, settle, by rw [step.frame]; rfl,
    by rw [step.frame]; rfl, by rw [step.frame]; rfl, fun target grants => ?_,
    fun changed => ⟨fun room => ?_, fun none_ => ?_, fun o outstanding => ⟨fun credit grants => ?_, fun differs w freed withdrawn idle => ?_⟩⟩⟩
  · rw [State.completed_unchanged hw recompute fun k => k.elim (· target) (· grants)]
    exact ⟨State.resultWritten_caseAt hw, rfl, State.resultWritten_others⟩
  · obtain ⟨later, hlater⟩ := (adjusted changed).events
    refine ⟨later, hlater.symm.trans ?_⟩
    rw [reads.notices]
    show (NoticeUnit.raise _ _).untaken ++ later = _
    rw [NoticeUnit.raise_untaken room, List.append_assoc]
    rfl
  · obtain ⟨u, taken, others, frame, fresh⟩ := State.completed_fresh hw live recompute changed none_ ((hs.at op.caseNo).issueOwed none_)
    refine ⟨u, taken, others, by rw [settle]; exact frame, fresh.congr ?_ ?_⟩
    · rcases state with h | h | h <;> simp [h, mayIssue]
    · rcases state with h | h | h <;> simp [h, mayCollect]
  · obtain ⟨done, others, record⟩ := State.completed_carries hw recompute changed outstanding (State.adjustedBy_step hw live).table credit grants
    exact ⟨others, by rw [done]; rfl, record, by rw [done]; exact reads.notices⟩
  · rw [settle]
    exact State.completed_withdraws hw live recompute changed outstanding ((hs.at op.caseNo).outstanding o outstanding).1 differs withdrawn idle

end Sys2Proof.Machine
end

section
/-! PROOFS. Collections (R131 to R134): what a COLLECTION and a STALE_COLLECTION count, log and leave. -/

namespace Sys2Proof.Machine

/-! ### The mark beside the effects -/

/-- The mark, and the boundary it may end, stand beside what the record does to the cases, the queue, the notices and the log. -/
theorem State.markHead_beside {s u : State} (h : u = { s with
    cases := u.cases, actions := u.actions, notices := u.notices, log := u.log }) (m : Mark) :
    u.markHead m = { s.markHead m with cases := u.cases, actions := u.actions, notices := u.notices, log := u.log } := by
  generalize u.cases = cs, u.actions = a, u.notices = n, u.log = l at h
  subst h
  unfold State.markHead
  dsimp only
  split
  · rfl
  · split
    · unfold State.boundary State.completeHeld State.writeReply
      dsimp only
      cases s.control.phase with
      | executing replies held =>
        cases held with
        | some c =>
          dsimp only
          split <;> rfl
        | none => rfl
      | _ => rfl
    · rfl

/-- What a logged exception adds, by the log, the notices and the time. -/
theorem State.logException_congr {s u : State} (hl : u.log = s.log) (hn : u.notices = s.notices) (ht : u.time = s.time)
    (a : Option Nat) (b : Option CardId) (d : Option DeviceId) (e : ExceptionDetail) :
    (u.logException a b d e).log = (s.logException a b d e).log ∧ (u.logException a b d e).notices = (s.logException a b d e).notices := by
  unfold State.logException State.logRecord
  rw [hl, hn, ht]
  exact ⟨rfl, rfl⟩

/-! ### The part as a collection has been counted and logged -/

/-- A collection has been counted in case `c`, whose record is now `counted`, and logged: `v` before the mark, and `logged` with the
mark but with the case as it was. -/
structure CollectedAs (s v logged : State) (m : Mark) (c : Nat) (counted : CaseRecord) : Prop where
  cases : v.cases = (s.setCase c counted).cases
  frame : v = { s with cases := v.cases, log := v.log, notices := v.notices }
  logged : logged = { s.markHead m with log := v.log, notices := v.notices }

section Collected
variable {s v logged : State} {m : Mark} {c : Nat} {counted : CaseRecord}

theorem CollectedAs.unlogged : CollectedAs s (s.setCase c counted) (s.marked m) m c counted where
  cases := rfl
  frame := rfl
  logged := by
    rw [State.setCase_log, State.setCase_notices]
    conv_lhs => rw [State.marked, State.markHead_frame]
    conv_rhs => rw [State.markHead_frame]

theorem CollectedAs.exception (a : Option Nat) (b : Option CardId) (d : Option DeviceId) (e : ExceptionDetail) :
    CollectedAs s ((s.setCase c counted).logException a b d e) ((s.marked m).logException a b d e) m c counted where
  cases := rfl
  frame := rfl
  logged := by
    obtain ⟨log, notices⟩ := State.logException_congr (s := s.setCase c counted) (u := s.marked m) (State.markHead_log s m)
      (State.markHead_notices s m) (State.markHead_time s m) a b d e
    rw [← log, ← notices]
    rfl

variable (h : CollectedAs s v logged m c counted) (hw : s.tableOk)
include h

theorem CollectedAs.log : logged.log = v.log := by rw [h.logged]

theorem CollectedAs.notices : logged.notices = v.notices := by rw [h.logged]

theorem CollectedAs.actions : logged.actions = s.actions := by rw [h.logged]; exact State.markHead_actions s m

theorem CollectedAs.time : logged.time = s.time := by rw [h.logged]; exact State.markHead_time s m

theorem CollectedAs.loggedCases : logged.cases = s.cases := by rw [h.logged]; exact State.markHead_cases s m

theorem CollectedAs.settle : logged.settle = s.settle := by rw [h.logged]; exact State.markHead_settle s m

theorem CollectedAs.index : logged.index = s.index := by rw [h.logged]; exact State.markHead_index s m

theorem CollectedAs.poolFree : logged.poolFree = s.poolFree := by rw [h.logged]; exact State.markHead_poolFree s m

theorem CollectedAs.vActions : v.actions = s.actions := by rw [h.frame]

theorem CollectedAs.vTime : v.time = s.time := by rw [h.frame]

theorem CollectedAs.others : s.sameCasesBut v c := fun j hj =>
  (State.caseAt_congr h.cases j).trans (State.caseAt_setCase_other s hj counted)

/-- The mark over a part reconciled from `v` stands as `logged` with that part's cases, queue and notices. -/
theorem CollectedAs.markHead {t : State} (ht : t = { v with cases := t.cases, actions := t.actions, notices := t.notices }) :
    t.markHead m = { logged with cases := t.cases, actions := t.actions, notices := t.notices } := by
  have log : t.log = v.log := by rw [ht]
  rw [State.markHead_beside (s := s) (u := t) (by rw [log]; conv_lhs => rw [ht, h.frame]), h.logged, log]

include hw

theorem CollectedAs.record : v.caseAt c = counted := (State.caseAt_congr h.cases c).trans (State.caseAt_setCase_same s hw.1 c counted)

theorem CollectedAs.reads : ReadsAs logged v c counted [] :=
  ⟨h.record hw, h.vActions.trans h.actions.symm, h.notices.symm, h.vTime.trans h.time.symm⟩

end Collected

/-! ### The reconcile step of a collection, the mark, and what follows -/

/-- The end of a collection's disposition: the reconcile step, the mark, the service of room and the deadlines reached (R41, R122). -/
def State.collectedEnd (s v : State) (m : Mark) (c : Nat) : State :=
  (endEvent ((v.reconcile c false).1.markHead m, (v.reconcile c false).2)).afterReached s

theorem State.disposesNext.exec_collected {s v : State} {p : IntakeParcel} {rest : List IntakeParcel} {i : IntakeRecord} {m : Mark} {c : Nat}
    (h : s.disposesNext p rest i) (hd : s.dispose i.raw i.stamp = (v.reconcile c false, m)) :
    exec .recordDisposition s = .next (s.collectedEnd v m c) := by
  obtain ⟨hq, hc, hf⟩ := h
  show execRecordDisposition s = _
  rw [execRecordDisposition, hq]
  dsimp only
  rw [if_pos hc, hf]
  dsimp only
  unfold State.disposeHead
  dsimp only
  rw [hd]
  rfl

/-- The queue admits, and the case owes, whatever the mark is. -/
theorem State.markHead_servable (s : State) (m : Mark) (j : Nat) : (s.markHead m).servable j = s.servable j := by
  unfold State.servable State.admitsOther State.admitsRestore
  rw [State.caseAt_congr (s.markHead_cases m), State.markHead_actions]

theorem State.markHead_caseAt (s : State) (m : Mark) (j : Nat) : (s.markHead m).caseAt j = s.caseAt j :=
  State.caseAt_congr (s.markHead_cases m) j

/-- What the reconcile step left stands under the mark. -/
theorem State.reconciledFresh.marked {s t u : State} {c : Nat} {r : CaseRecord} {details : List EventDetail} {issue collect : Prop}
    (h : s.reconciledFresh t c r details issue collect) (hc : u.cases = t.cases) (ha : u.actions = t.actions) (hn : u.notices = t.notices) :
    s.reconciledFresh u c r details issue collect := by
  have record := State.caseAt_congr hc c
  constructor
  · rw [record]; exact h.kept
  · rw [record, hn]; exact h.issued
  · rw [record, ha]; exact h.queued
  · rw [record, ha]; exact h.owed
  · rw [record, ha, hn]; exact h.exhausted
  · rw [record, ha, hn]; exact h.collected
  · rw [record, ha, hn]; exact h.stays

section End
variable {s v logged : State} {m : Mark} {c : Nat} {counted : CaseRecord} (h : CollectedAs s v logged m c counted) (hw : s.tableOk)
  (live : (s.caseAt c).state ≠ .free) (same : SameCase (s.caseAt c) counted)
include h hw live same

theorem CollectedAs.table : v.tableOk :=
  let counts := RecordStep.setCase hw live same
  (counts.trans (.of_cases counts.table h.cases)).table

theorem CollectedAs.vLive : (v.caseAt c).state ≠ .free := by rw [h.record hw]; exact fun k => live (same.free.mp k)

theorem CollectedAs.reconciled : v.sameCasesBut (v.reconcile c false).1 c ∧
    (v.reconcile c false).1.markHead m = { logged with
      cases := (v.reconcile c false).1.cases, actions := (v.reconcile c false).1.actions, notices := (v.reconcile c false).1.notices } ∧
    ((v.reconcile c false).1.markHead m).tableOk := by
  have table := h.table hw live same
  have live' := h.vLive hw live same
  obtain ⟨others, frame⟩ := State.reconcile_frame table live' false
  exact ⟨others, h.markHead frame, (SameTables.markHead _ m).tableOk (RecordStep.reconcile table live' false).table⟩

/-- Whatever room is freed and whoever takes it, what the collection counted stays, and nothing but the records, the Action Queue and
the notices changes further. -/
theorem CollectedAs.ends (deadline : counted.deadline = (s.caseAt c).deadline) :
    counted.handled ((s.collectedEnd v m c).caseAt c) ∧
    s.collectedEnd v m c = { logged with
      cases := (s.collectedEnd v m c).cases, actions := (s.collectedEnd v m c).actions, notices := (s.collectedEnd v m c).notices } := by
  obtain ⟨-, frame, table⟩ := h.reconciled hw live same
  have first : Handled v (v.reconcile c false).1 := Handled.reconcile (h.table hw live same).1 false
  have marked : Handled v ((v.reconcile c false).1.markHead m) := first.trans (.same first.wf (State.markHead_cases _ m) (State.markHead_notices _ m))
  have ended : Handled v (endEvent ((v.reconcile c false).1.markHead m, (v.reconcile c false).2)) := Handled.endEvent (o := (_, _)) marked
  have step : CaseStep ((v.reconcile c false).1.markHead m) (endEvent ((v.reconcile c false).1.markHead m, (v.reconcile c false).2)) :=
    CaseStep.endEvent (o := (_, _)) (.refl _)
  have endTable : (endEvent ((v.reconcile c false).1.markHead m, (v.reconcile c false).2)).tableOk :=
    (RecordStep.endEvent (o := (_, _)) (.refl table)).table
  obtain ⟨after, step'⟩ := State.afterReached_handled (s := s) endTable fun j d hd => by
    refine ((ended.records j).deadline d hd).imp_left fun k => ?_
    by_cases hj : j = c
    · subst hj
      rw [h.record hw, deadline] at k
      exact k
    · rwa [h.others j hj] at k
  refine ⟨?_, ?_⟩
  · have := (ended.trans after).records c
    rwa [h.record hw] at this
  · have total := (step.trans step').frame
    unfold State.collectedEnd
    generalize (endEvent ((v.reconcile c false).1.markHead m, (v.reconcile c false).2)).afterReached s = e at total ⊢
    rw [frame] at total
    exact total

/-- With nothing outstanding, the reconcile step ends as for a fresh case (R127, R128). -/
theorem CollectedAs.ends_fresh (none_ : counted.outstanding = none) (issueOwed : counted.flags.issueOwed = false) :
    ∃ t : State, s.reachedTaken t (s.collectedEnd v m c) c ∧ s.sameCasesBut t c ∧
      t = { logged with cases := t.cases, actions := t.actions, notices := t.notices } ∧
      logged.reconciledFresh t c counted [] (mayIssue counted.state false = true) (mayCollect counted.state false = true) := by
  obtain ⟨others, frame, table⟩ := h.reconciled hw live same
  have apart : s.sameCasesBut ((v.reconcile c false).1.markHead m) c := fun j hj =>
    (State.markHead_caseAt _ m j).trans ((others j hj).trans (h.others j hj))
  have done : s.collectedEnd v m c = ((v.reconcile c false).1.markHead m).afterReached s := by
    unfold State.collectedEnd
    rw [State.reconcile_of_none (by rw [h.record hw]; exact none_)]
    exact congrArg (State.afterReached · s) (endEvent_of_unservable (.inl rfl))
  rw [done]
  have fresh := State.reconcile_fresh (h.table hw live same) (fun k => live (same.free.mp k)) (h.reads hw) none_ issueOwed false
  exact ⟨_, State.reachedTaken_afterReached table (by rw [frame]; exact h.time) apart, apart, by rw [frame],
    fresh.marked (State.markHead_cases _ m) (State.markHead_actions _ m) (State.markHead_notices _ m)⟩

/-- An outstanding action that carries what is desired stays (R127). -/
theorem CollectedAs.ends_carries {o : Outstanding} (outstanding : counted.outstanding = some o)
    (credit : o.credit = counted.desiredCredit) (grants : o.grants = counted.desiredGrants)
    (deadline : counted.deadline = (s.caseAt c).deadline) :
    s.sameCasesBut (s.collectedEnd v m c) c ∧ s.collectedEnd v m c = { logged with cases := (s.collectedEnd v m c).cases } ∧
    (s.collectedEnd v m c).caseAt c = { counted with overpaid := max (counted.applied - counted.target - counted.unpaid) 0 } := by
  obtain ⟨others, frame, -⟩ := h.reconciled hw live same
  have carries := State.reconcile_of_carries (s := v) (c := c) (by rw [h.record hw]; exact outstanding)
    (by rw [h.record hw]; exact credit) (by rw [h.record hw]; exact grants) false
  have record := State.caseAt_setOverpaid (h.table hw live same) c
  rw [h.record hw] at record
  rw [carries] at others frame
  have apart : s.sameCasesBut ((v.setOverpaid c).markHead m) c := fun j hj =>
    (State.markHead_caseAt _ m j).trans ((others j hj).trans (h.others j hj))
  have record' := (State.markHead_caseAt (v.setOverpaid c) m c).trans record
  have done : s.collectedEnd v m c = (v.setOverpaid c).markHead m := by
    unfold State.collectedEnd
    rw [carries, endEvent_of_unservable (.inl rfl)]
    exact State.afterReached_kept apart (by rw [record']; exact deadline)
  rw [done]
  refine ⟨apart, ?_, record'⟩
  have actions : (v.setOverpaid c).actions = logged.actions := h.vActions.trans h.actions.symm
  have notices : (v.setOverpaid c).notices = logged.notices := h.notices.symm
  rw [frame, actions, notices]

/-- An outstanding action that differs from what is desired is withdrawn first (R127 step 1). -/
theorem CollectedAs.ends_withdraws {o : Outstanding} (outstanding : counted.outstanding = some o) (issued : counted.state = .issued)
    (differs : o.credit ≠ counted.desiredCredit ∨ o.grants ≠ counted.desiredGrants) {w : State} {freed : Bool}
    (withdrawn : (w, freed) = (logged.setCase c counted).withdraw c)
    (idle : freed = false ∨ (counted.owed = ⟨[], false⟩ ∧ ∀ j, j ≠ c → (s.caseAt j).owes = false)) :
    ∃ t : State, s.reachedTaken t (s.collectedEnd v m c) c ∧ s.sameCasesBut t c ∧
      t = { w with cases := t.cases, actions := t.actions, notices := t.notices } ∧
      w.reconciledFresh t c (w.caseAt c) [] True True := by
  have loggedTable : logged.tableOk := (RecordStep.of_cases hw h.loggedCases).table
  have zcases : (logged.setCase c counted).cases = v.cases := by rw [State.setCase_cases, h.loggedCases]; exact h.cases.symm
  have table : (logged.setCase c counted).tableOk := (RecordStep.of_cases (h.table hw live same) zcases).table
  have record : (logged.setCase c counted).caseAt c = counted := State.caseAt_setCase_same logged loggedTable.1 c counted
  have zothers : s.sameCasesBut (logged.setCase c counted) c := fun j hj => (State.caseAt_congr zcases j).trans (h.others j hj)
  obtain ⟨wothers, wframe, -⟩ := State.withdraw_frame table c
  rw [← withdrawn] at wothers wframe
  obtain ⟨u, reconciles, utable, uothers, uframe, fresh, served⟩ := State.reconcile_after_withdrawal (v := v) (details := []) table zcases.symm
    (h.vActions.trans h.actions.symm) (h.vTime.trans h.time.symm) h.notices.symm (by rw [record]; exact issued)
    (by rw [record]; exact outstanding) (by rw [record]; exact differs) withdrawn
  have apart : (logged.setCase c counted).sameCasesBut u c := fun j hj => (uothers j hj).trans (wothers j hj)
  have quiet := State.unservable_of apart (by
    rw [record]
    exact idle.imp_right fun ⟨owed, rest⟩ => ⟨owed, fun j hj => by rw [zothers j hj]; exact rest j hj⟩) served
  have apart' : s.sameCasesBut (u.markHead m) c := fun j hj => (State.markHead_caseAt u m j).trans ((apart j hj).trans (zothers j hj))
  have frame := h.markHead uframe
  have done : s.collectedEnd v m c = (u.markHead m).afterReached s := by
    unfold State.collectedEnd
    rw [reconciles false]
    exact congrArg (State.afterReached · s)
      (endEvent_of_unservable (quiet.imp_right fun k j => (State.markHead_servable u m j).trans (k j)))
  rw [done]
  refine ⟨_, State.reachedTaken_afterReached ((SameTables.markHead u m).tableOk utable) (by rw [frame]; exact h.time) apart', apart', ?_,
    fresh.marked (State.markHead_cases u m) (State.markHead_actions u m) (State.markHead_notices u m)⟩
  rw [frame, show w = _ from wframe]
  rfl

end End

/-! ### The counts -/

theorem maskExceeds_iff {grants : List Grant} {mask : BitVec 4} :
    maskExceeds grants mask = true ↔ ∃ slot : PassSlot, mask.getLsbD slot.val = true ∧ ∀ g ∈ grants, g.slot ≠ slot := by
  simp only [maskExceeds, List.any_eq_true, mem_allSlots, true_and, Bool.and_eq_true, Bool.not_eq_true', ← Bool.not_eq_true (carriesSlot _ _),
    carriesSlot_iff, not_exists, not_and, maskNames]

/-- A record counted as R131 and R132 give it is the one the COLLECTION leaves. -/
theorem CaseRecord.collect_eq {r counted : CaseRecord} {o : Outstanding} {amount : Int} {mask : BitVec 4}
    (record : counted = { r with
      applied := min (r.applied + amount) 2000000
      unpaid := if amount < o.credit then min (r.unpaid + (o.credit - amount)) 2000000 else r.unpaid
      outstanding := none, grantStatus := counted.grantStatus
      flags := { r.flags with issueOwed := false, underApplied := r.flags.underApplied || decide (amount < o.credit) } })
    (statuses : ∀ slot : PassSlot, counted.grantStatus.get slot =
      if (∃ g ∈ o.grants, g.slot = slot) then (if mask.getLsbD slot.val then .applied else .refused) else r.grantStatus.get slot) :
    counted = r.collect o amount mask := by
  have grants : counted.grantStatus = r.grantStatus.afterCollection o.grants mask := by
    refine SlotStatuses.ext_get fun slot => ?_
    rw [statuses slot, SlotStatuses.afterCollection, SlotStatuses.get_build]
    by_cases carried : ∃ g ∈ o.grants, g.slot = slot
    · rw [if_pos carried, if_pos (carriesSlot_iff.mpr carried)]; rfl
    · rw [if_neg carried, if_neg fun k => carried (carriesSlot_iff.mp k)]
  rw [record, grants]
  unfold CaseRecord.collect addTotal
  by_cases short : amount < o.credit
  · rw [if_pos short]; simp only [short, decide_true, if_true]; rfl
  · rw [if_neg short]; simp only [short, decide_false]; rfl

theorem CaseRecord.stale_eq {r counted : CaseRecord} {amount : Int} {mask : BitVec 4}
    (record : counted = { r with applied := min (r.applied + amount) 2000000, grantStatus := counted.grantStatus })
    (statuses : ∀ slot : PassSlot, counted.grantStatus.get slot =
      if mask.getLsbD slot.val = true ∧ (r.grantStatus.get slot = .wanted ∨ r.grantStatus.get slot = .none) then .applied
      else r.grantStatus.get slot) :
    counted = { r with applied := addTotal r.applied amount, grantStatus := r.grantStatus.afterStale mask } := by
  have grants : counted.grantStatus = r.grantStatus.afterStale mask := by
    refine SlotStatuses.ext_get fun slot => ?_
    rw [statuses slot, SlotStatuses.afterStale, SlotStatuses.get_build]
    rfl
  rw [record, grants]
  rfl

theorem collectionRow_of_current {r : CaseRecord} {c : Nat} {o : Outstanding} (outstanding : r.outstanding = some o)
    (used : o.generation ≠ 0) : collectionRow r c ⟨c, r.inst, o.generation⟩ = .current o := by
  unfold collectionRow
  rw [if_neg (by simp), if_neg used, outstanding]
  exact if_pos rfl

theorem collectionRow_of_stale {r : CaseRecord} {c : Nat} {ref : Ref} (hc : ref.caseNo = c) (hi : ref.inst = r.inst)
    (used : 1 ≤ ref.generation) (past : ref.generation ≤ r.generation)
    (other : ∀ o, r.outstanding = some o → o.generation ≠ ref.generation) : collectionRow r c ref = .stale := by
  unfold collectionRow
  rw [if_neg (by simp [hc, hi]), if_neg (by omega)]
  cases outstanding : r.outstanding with
  | none => exact if_pos past
  | some o =>
    dsimp only
    rw [if_neg (other o outstanding).symm, if_pos past]

/-- The part a COLLECTION logs (R132): an APPLIED_MISMATCH for a differing amount, else one for a slot the action did not carry. -/
theorem State.collection_collected {s logged : State} {c : Nat} {o : Outstanding} {amount : Int} {mask : BitVec 4} {device : DeviceId}
    (hlog : logged = (if countedAmount amount ≠ o.credit then
        (s.marked .collection).logException (some c) (some (s.caseAt c).newCard) (some device)
          (.appliedMismatch o.generation o.credit (countedAmount amount) none)
      else if (∃ slot : PassSlot, mask.getLsbD slot.val = true ∧ ∀ g ∈ o.grants, g.slot ≠ slot) then
        (s.marked .collection).logException (some c) (some (s.caseAt c).newCard) (some device)
          (.appliedMismatch o.generation o.credit (countedAmount amount) (some mask))
      else s.marked .collection)) :
    ∃ v, s.collection c o amount mask device = v.reconcile c false ∧
      CollectedAs s v logged .collection c ((s.caseAt c).collect o (countedAmount amount) mask) := by
  unfold State.collection
  dsimp only
  refine ⟨_, rfl, ?_⟩
  rw [hlog]
  by_cases differs : countedAmount amount ≠ o.credit
  · rw [if_pos differs, if_pos differs]
    exact .exception _ _ _ _
  · rw [if_neg differs, if_neg differs]
    by_cases exceeds : maskExceeds o.grants mask = true
    · rw [if_pos exceeds, if_pos (maskExceeds_iff.mp exceeds)]
      exact .exception _ _ _ _
    · rw [if_neg exceeds, if_neg fun k => exceeds (maskExceeds_iff.mpr k)]
      exact .unlogged

/-- Settles O20: each kind of collection counts first, and then runs the reconcile step on the record so counted. -/
theorem collectionsAreCounted : Obligations.CollectionsAreCounted := by
  refine ⟨?_, ?_⟩
  · rintro s p rest i u c r counted o ref mask amount logged hw hs next on rfl found kind href hmask rfl outstanding rfl rfl
      hcounted statuses hlog
    obtain ⟨issued, generation, used⟩ := (hs.at c).outstanding o outstanding
    have live : (s.caseAt c).state ≠ .free := by simp [issued]
    obtain rfl := CaseRecord.collect_eq hcounted statuses
    obtain ⟨v, collects, collected⟩ := State.collection_collected hlog
    have same : SameCase (s.caseAt c) ((s.caseAt c).collect o (max (usageRecord i.raw).amount 0) mask) := ⟨Iff.rfl, rfl, rfl, rfl, rfl⟩
    have disposes : s.dispose i.raw i.stamp = (v.reconcile c false, .collection) := by
      rw [State.dispose_new on found, State.disposeNew_applied kind href hmask]
      unfold State.takeCollection
      rw [collectionRow_of_current outstanding (by omega)]
      exact congrArg (·, Mark.collection) collects
    obtain ⟨handled, frame⟩ := collected.ends hw live same rfl
    obtain ⟨t, taken, others, tframe, fresh⟩ := collected.ends_fresh hw live same rfl rfl
    have kept := handled.kept
    refine ⟨t, s.collectedEnd v .collection c, next.exec_collected disposes, taken, others, tframe,
      fresh.congr ?_ ?_, by rw [kept]; rfl, by rw [kept]; rfl, by rw [kept]; rfl, by rw [kept]; rfl, by rw [kept]; rfl, by rw [kept]; rfl, by rw [kept]; rfl,
      by rw [frame]⟩
    · show mayIssue (s.caseAt c).state false = true ↔ True
      simp [issued, mayIssue]
    · show mayCollect (s.caseAt c).state false = true ↔ True
      simp [issued, mayCollect]
  · rintro s p rest i u c r counted ref mask logged hw hs next on rfl found kind href hmask rfl hc hi used past other hcounted statuses rfl
    have live : (s.caseAt c).state ≠ .free := fun free => by
      rw [hw.free_eq free] at past
      simp only [CaseRecord.freeWith] at past
      omega
    have record := CaseRecord.stale_eq hcounted statuses
    have collected := CollectedAs.exception (s := s) (m := .staleCollection) (c := c) (counted := counted)
      (some c) (some (s.caseAt c).newCard) (some (usageRecord i.raw).device)
      (.staleCollection ref.generation (max (usageRecord i.raw).amount 0))
    have same : SameCase (s.caseAt c) counted := by rw [record]; exact ⟨Iff.rfl, rfl, rfl, rfl, rfl⟩
    have disposes : s.dispose i.raw i.stamp = (((s.setCase c counted).logException (some c) (some (s.caseAt c).newCard)
        (some (usageRecord i.raw).device) (.staleCollection ref.generation (max (usageRecord i.raw).amount 0))).reconcile c false,
        .staleCollection) := by
      rw [State.dispose_new on found, State.disposeNew_applied kind href hmask]
      unfold State.takeCollection
      rw [collectionRow_of_stale hc hi used past other, record]
      rfl
    have deadline : counted.deadline = (s.caseAt c).deadline := by rw [record]
    have outstanding_ : counted.outstanding = (s.caseAt c).outstanding := by rw [record]
    have state : counted.state = (s.caseAt c).state := by rw [record]
    obtain ⟨handled, frame⟩ := collected.ends hw live same deadline
    have kept := handled.kept
    refine ⟨_, next.exec_collected disposes, by rw [kept], by rw [kept, record], by rw [kept, record], by rw [kept], by rw [frame],
      by rw [frame], by rw [frame], by rw [frame]; exact collected.settle, by rw [frame]; exact collected.index,
      by rw [frame]; exact collected.poolFree, fun none_ => ?_,
      fun o outstanding => ⟨fun credit grants => ?_, fun differs w freed withdrawn idle => ?_⟩⟩
    · obtain ⟨v, taken, others, vframe, fresh⟩ := collected.ends_fresh hw live same (outstanding_.trans none_)
        (by rw [record]; exact (hs.at c).issueOwed none_)
      refine ⟨v, taken, others, vframe, fresh.congr ?_ ?_⟩
      · rw [state]
        cases (s.caseAt c).state <;> simp [mayIssue]
      · rw [state]
        cases (s.caseAt c).state <;> simp [mayCollect]
    · obtain ⟨others, tframe, stays⟩ := collected.ends_carries hw live same (outstanding_.trans outstanding) credit grants deadline
      refine ⟨others, tframe, ?_⟩
      rw [stays, record]
      rfl
    · exact collected.ends_withdraws hw live same (outstanding_.trans outstanding)
        (state.trans ((hs.at c).outstanding o outstanding).1) differs withdrawn (by rw [record]; exact idle)

end Sys2Proof.Machine
end

section
/-! PROOFS. SWITCH_POLICY (R147, R148): a completion reads nothing of the policy banks, so that the flip it releases comes after it. -/

namespace Sys2Proof.Machine

/-- The part with other policy banks. -/
def State.onPolicy (s : State) (p : PolicyBanks) : State := { s with policy := p }

/-- The same of a part and whether room was freed. -/
def onPolicy₂ (o : State × Bool) (p : PolicyBanks) : State × Bool := (o.1.onPolicy p, o.2)

/-! ### What reads nothing of the policy banks -/

section Banks
variable (s : State) (p : PolicyBanks) (c : Nat)

theorem State.onPolicy_ite {b : Prop} [Decidable b] (t u : State) :
    (if b then t.onPolicy p else u.onPolicy p) = (if b then t else u).onPolicy p := (apply_ite (State.onPolicy · p) b t u).symm

theorem onPolicy₂_ite {b : Prop} [Decidable b] (t u : State × Bool) :
    (if b then onPolicy₂ t p else onPolicy₂ u p) = onPolicy₂ (if b then t else u) p := (apply_ite (onPolicy₂ · p) b t u).symm

theorem State.onPolicy_caseAt : (s.onPolicy p).caseAt c = s.caseAt c := rfl

theorem State.onPolicy_placeWithdraw (g : Nat) : (s.onPolicy p).placeWithdraw c g = (s.placeWithdraw c g).onPolicy p := by
  unfold State.placeWithdraw
  dsimp only
  rw [← State.onPolicy_ite]
  rfl

theorem State.onPolicy_placeRestore (o : Outstanding) : (s.onPolicy p).placeRestore c o = (s.placeRestore c o).onPolicy p := by
  unfold State.placeRestore
  dsimp only
  rw [← State.onPolicy_ite]
  rfl

theorem State.onPolicy_withdraw : (s.onPolicy p).withdraw c = onPolicy₂ (s.withdraw c) p := by
  unfold State.withdraw
  dsimp only
  rw [State.onPolicy_caseAt]
  cases (s.caseAt c).outstanding with
  | none => rfl
  | some o =>
    have sent := State.onPolicy_placeWithdraw (s.setCase c (s.caseAt c).clearOutstanding) p c o.generation
    dsimp only
    rw [← onPolicy₂_ite, ← onPolicy₂_ite]
    exact if_congr Iff.rfl rfl (if_congr Iff.rfl rfl (congrArg (·, false) sent))

theorem State.onPolicy_issue : (s.onPolicy p).issue c = (s.issue c).onPolicy p := by
  unfold State.issue
  dsimp only
  rw [← State.onPolicy_ite, State.onPolicy_caseAt]
  exact if_congr Iff.rfl (State.onPolicy_placeRestore (s.setCase c (s.caseAt c).issuing) p c _) rfl

theorem State.onPolicy_reconcileIssue (b : Bool) : (s.onPolicy p).reconcileIssue c b = (s.reconcileIssue c b).onPolicy p := by
  unfold State.reconcileIssue
  dsimp only
  rw [← State.onPolicy_ite, State.onPolicy_issue]
  rfl

theorem State.onPolicy_reconcileCollect (b : Bool) : (s.onPolicy p).reconcileCollect c b = (s.reconcileCollect c b).onPolicy p := by
  unfold State.reconcileCollect
  dsimp only
  rw [← State.onPolicy_ite]
  rfl

theorem State.onPolicy_reconcileWithdraw : (s.onPolicy p).reconcileWithdraw c = onPolicy₂ (s.reconcileWithdraw c) p := by
  unfold State.reconcileWithdraw
  rw [← onPolicy₂_ite, State.onPolicy_withdraw]
  rfl

theorem State.onPolicy_reconcile (b : Bool) : (s.onPolicy p).reconcile c b = onPolicy₂ (s.reconcile c b) p := by
  unfold State.reconcile
  dsimp only
  rw [State.onPolicy_reconcileWithdraw]
  unfold onPolicy₂
  dsimp only
  rw [State.onPolicy_reconcileIssue, State.onPolicy_reconcileCollect]
  rfl

theorem State.onPolicy_serveWithdraws : ∀ (gs : List Nat) (s : State),
    (s.onPolicy p).serveWithdraws c gs = (s.serveWithdraws c gs).onPolicy p := by
  intro gs
  induction gs with
  | nil => exact fun _ => rfl
  | cons g gs ih =>
    intro s
    unfold State.serveWithdraws
    rw [← State.onPolicy_ite]
    exact if_congr Iff.rfl (ih ((s.enqueue (.withdraw (s.refOfCase c g) (s.caseAt c).newCard)).setCase c
      { s.caseAt c with owed := { (s.caseAt c).owed with withdraws := gs } })) rfl

theorem State.onPolicy_serveUnblock : (s.onPolicy p).serveUnblock c = (s.serveUnblock c).onPolicy p := by
  unfold State.serveUnblock
  dsimp only
  rw [← State.onPolicy_ite]
  rfl

theorem State.onPolicy_serveRestore : (s.onPolicy p).serveRestore c = (s.serveRestore c).onPolicy p := by
  unfold State.serveRestore
  dsimp only
  rw [State.onPolicy_caseAt]
  cases (s.caseAt c).outstanding with
  | none => rfl
  | some o =>
    dsimp only
    rw [← State.onPolicy_ite]
    rfl

theorem State.onPolicy_serveCase : (s.onPolicy p).serveCase c = (s.serveCase c).onPolicy p := by
  unfold State.serveCase
  rw [State.onPolicy_caseAt, State.onPolicy_serveWithdraws, State.onPolicy_serveUnblock, State.onPolicy_serveRestore,
    State.onPolicy_reconcile]
  rfl

theorem State.onPolicy_serveCases : ∀ (cs : List Nat) (s : State), (s.onPolicy p).serveCases cs = (s.serveCases cs).onPolicy p := by
  intro cs
  induction cs with
  | nil => exact fun _ => rfl
  | cons c cs ih =>
    intro s
    unfold State.serveCases
    rw [← ih, ← State.onPolicy_ite, State.onPolicy_serveCase]
    rfl

theorem onPolicy₂_endEvent (o : State × Bool) : endEvent (onPolicy₂ o p) = (endEvent o).onPolicy p := by
  unfold endEvent
  rw [← State.onPolicy_ite]
  exact if_congr Iff.rfl (State.onPolicy_serveCases p _ _) rfl

theorem State.onPolicy_placeRequest (req : SettleRequest) (again : Bool) :
    (s.onPolicy p).placeRequest req again = (s.placeRequest req again).onPolicy p := by
  unfold State.placeRequest
  rw [show (s.onPolicy p).settle = s.settle from rfl]
  cases s.settle.fifo.find? (fun w => w.caseNo == req.caseNo) with
  | none => rfl
  | some w =>
    dsimp only
    rw [← State.onPolicy_ite]
    rfl

/-! ### The expiries -/

theorem State.onPolicy_collectionExpires (r : CaseRecord) : (s.onPolicy p).collectionExpires c r = (s.collectionExpires c r).onPolicy p := by
  unfold State.collectionExpires
  dsimp only
  rw [show (s.onPolicy p).setCase c r.expired = (s.setCase c r.expired).onPolicy p from rfl, State.onPolicy_withdraw]
  rw [← onPolicy₂_endEvent]
  rfl

theorem State.onPolicy_expire (r : CaseRecord) : (s.onPolicy p).expire c r = (s.expire c r).onPolicy p := by
  unfold State.expire
  cases r.deadline.map Deadline.kind with
  | none => rfl
  | some kind =>
    cases kind with
    | windowEnd => exact State.onPolicy_placeRequest (s.setCase c r.expired) p _ _
    | collection => exact State.onPolicy_collectionExpires s p c r
    | tailEnd => rfl

theorem State.onPolicy_expireReached (before : State) (q : PolicyBanks) : ∀ (n : Nat) (s : State),
    State.expireReached (before.onPolicy q) n (s.onPolicy p) = (State.expireReached before n s).onPolicy p := by
  intro n
  induction n with
  | zero => exact fun _ => rfl
  | succ n ih =>
    intro s
    unfold State.expireReached
    rw [show (before.onPolicy q).reachedSince (s.onPolicy p) = before.reachedSince s from rfl]
    cases before.reachedSince s with
    | none => rfl
    | some c =>
      dsimp only
      rw [State.onPolicy_caseAt, State.onPolicy_expire, ih]

theorem State.onPolicy_afterReached (before : State) (q : PolicyBanks) :
    (s.onPolicy p).afterReached (before.onPolicy q) = (s.afterReached before).onPolicy p :=
  State.onPolicy_expireReached p before q _ s

/-! ### The completion -/

variable (op : Operation)

theorem State.onPolicy_writeFirst : (s.onPolicy p).writeFirst op = onPolicy₂ (s.writeFirst op) p :=
  State.onPolicy_reconcile ((s.setCase op.caseNo ((s.caseAt op.caseNo).settledBy op)).raiseEvent op.caseNo
    (.settled op.result.status op.result.target)) p op.caseNo true

theorem State.onPolicy_completeBy : (s.onPolicy p).completeBy op = onPolicy₂ (s.completeBy op) p := by
  have first := State.onPolicy_writeFirst s p op
  unfold State.completeBy
  cases op.mode with
  | early =>
    unfold State.completeEarly
    dsimp only
    rw [first, ← onPolicy₂_ite]
    rfl
  | final =>
    unfold State.completeFinal
    dsimp only
    rw [first, ← onPolicy₂_ite]
    rfl
  | forced b np =>
    unfold State.completeForced
    dsimp only
    rw [first, ← onPolicy₂_ite]
    rfl
  | recompute =>
    unfold State.completeRecompute
    dsimp only
    rw [← onPolicy₂_ite]
    exact if_congr Iff.rfl (State.onPolicy_reconcile ((s.setCase op.caseNo ((s.caseAt op.caseNo).settledBy op)).raiseEvent op.caseNo
      (.adjusted (op.result.target - (s.caseAt op.caseNo).target))) p op.caseNo true) rfl

theorem State.onPolicy_complete : (s.onPolicy p).complete op = onPolicy₂ (s.complete op) p := by
  unfold State.complete
  dsimp only
  rw [State.onPolicy_completeBy, State.onPolicy_placeRequest, ← onPolicy₂_ite, ← onPolicy₂_ite, ← onPolicy₂_ite]
  rfl

end Banks

/-- What a completion leaves before a waiting flip is taken (R79). -/
def State.beforeFlip (s : State) (op : Operation) : State := (endEvent (s.landed.complete op)).afterReached s

theorem State.completeOperation_eq {s : State} {op : Operation} (flight : s.settle.inFlight = some op) :
    s.completeOperation = (s.beforeFlip op).flipIfPending := by
  unfold State.completeOperation
  rw [flight]
  rfl

theorem State.onPolicy_beforeFlip (s : State) (p : PolicyBanks) (op : Operation) :
    (s.onPolicy p).beforeFlip op = (s.beforeFlip op).onPolicy p := by
  unfold State.beforeFlip
  rw [show (s.onPolicy p).landed = s.landed.onPolicy p from rfl, State.onPolicy_complete, onPolicy₂_endEvent, State.onPolicy_afterReached]

/-- The part once an operation has ended, before the flip that waited, keeps its banks and its Control Unit. -/
theorem State.beforeFlip_frame (s : State) (op : Operation) : (s.beforeFlip op).policy = s.policy ∧ (s.beforeFlip op).control = s.control := by
  have step := (PartStep.endEvent (PartStep.complete s.landed op)).afterReached s
  exact ⟨step.policy, by unfold State.beforeFlip; rw [step.frame]; rfl⟩

/-- Settles O45: at once without an operation; with one, the completion is the same but for the flip at its end. -/
theorem switchPolicyFlipsBetweenOperations : Obligations.SwitchPolicyFlipsBetweenOperations := by
  have run (s : State) : exec .switchPolicy s = .next (s.execute 13 readNone runSwitchPolicy) := rfl
  have completes (s : State) : exec .settlementCompletion s = .next s.completeOperation := rfl
  refine ⟨fun s takes => ⟨fun idle => ?_, fun replies busy phase => ?_⟩, fun s op replies flight pending phase => ?_⟩
  · have rule : runSwitchPolicy s () = (s.flip, .reply .ok .none) := if_pos (by rw [idle]; rfl)
    rw [run, takes.answers readNone_nil rule]
    unfold State.flip Bank.other
    rfl
  · rw [run, takes.execute_of_read readNone_nil]
    unfold runSwitchPolicy
    rw [if_neg (by simpa using busy)]
    exact congrArg _ (State.finish_hold (s := { s with policy := { s.policy with switchPending := true } }) 13 .switchPolicy phase)
  · have quiet := State.completeOperation_eq (s := s.onPolicy { s.policy with switchPending := false }) flight
    have unflipped : ((s.onPolicy { s.policy with switchPending := false }).beforeFlip op).flipIfPending =
        (s.onPolicy { s.policy with switchPending := false }).beforeFlip op :=
      if_neg (by rw [(State.beforeFlip_frame _ op).1]; simp [State.onPolicy])
    rw [unflipped, State.onPolicy_beforeFlip] at quiet
    refine ⟨(s.beforeFlip op).onPolicy { s.policy with switchPending := false }, (completes _).trans (congrArg _ quiet), ?_⟩
    obtain ⟨policy, control⟩ := State.beforeFlip_frame s op
    rw [completes, State.completeOperation_eq flight]
    have flipped : (s.beforeFlip op).flipIfPending = (s.beforeFlip op).flip.completeHeld .switchPolicy :=
      if_pos (by rw [policy, pending])
    have phase' : (s.beforeFlip op).flip.control.phase = .executing replies (some .switchPolicy) := by
      rw [show (s.beforeFlip op).flip.control = (s.beforeFlip op).control from rfl, control, phase]
    have answered : (s.beforeFlip op).flip.completeHeld .switchPolicy = (s.beforeFlip op).flip.writeReply ⟨13, .ok, .none⟩ := by
      unfold State.completeHeld
      rw [phase']
      exact if_pos rfl
    rw [flipped, answered]
    unfold State.flip Bank.other
    rw [policy]
    rfl

end Sys2Proof.Machine
end

section
/-! PROOFS. OPEN_CASE accepted (R9 to R13). -/

namespace Sys2Proof.Machine

/-- Where none of the eight conditions holds, OPEN_CASE is accepted (R9). -/
theorem State.openRefusal_eq_none {s : State} {a : OpenArgs} (clock : s.time.clock = .set) (valid : (s.activeRow a.operator).valid = true)
    (oldCard : a.oldCard ≠ 0) (newCard : a.newCard ≠ 0) (inRange : a.inRange) (cards : a.oldCard ≠ a.newCard)
    (noOld : s.lookup a.oldCard = none) (noNew : s.lookup a.newCard = none) (unblocked : s.rangeBlocked a.newCard = false)
    (free : s.lowestFree.isSome = true) (room : s.actions.depth < 256) : s.openRefusal a = none := by
  have baseline : a.baselineOk = true := OpenArgs.baselineOk_iff.mpr inRange
  unfold State.openRefusal
  rw [if_neg (by simp [clock]), if_neg (by simp [valid]), if_neg (not_or.mpr ⟨oldCard, not_or.mpr ⟨newCard, by simp [baseline]⟩⟩), if_neg cards,
    if_neg (by simp [noOld, noNew]), if_neg (by simp [unblocked]), if_neg (by simpa using Option.isSome_iff_ne_none.mp free),
    if_neg (by rw [s.admitsOther_iff.mpr room]; decide)]

/-- Settles O21: no refusal holds, so that the record opened is the lowest FREE one, and its window end expires if reached.
-/
theorem openCaseOpensTheLowestFreeRecord : Obligations.OpenCaseOpensTheLowestFreeRecord := by
  rintro s args a c instant row inst hw takes reads rfl clock valid oldCard newCard inRange cards noOld noNew unblocked hc free low room
    hinstant rfl
  have lowest := State.lowestFree_eq_some hc free low
  have accepted := State.openRefusal_eq_none clock valid oldCard newCard inRange cards noOld noNew unblocked (by rw [lowest]; rfl) room
  have record : (s.openAt c a).caseAt c = openedRecord (s.caseAt c).inst a (s.activeRow a.operator) s.time.now := by
    rw [State.caseAt_openAt hw, if_pos rfl]
  have clamped : clampInstant a.reportTime s.time.now (s.activeRow a.operator).maxBackdateDays = instant := hinstant.symm
  have others : s.sameCasesBut (s.openAt c a) c := fun j hj => by rw [State.caseAt_openAt hw, if_neg hj]
  have block : (openedRecord (s.caseAt c).inst a (s.activeRow a.operator) s.time.now).blockInstant = instant := clamped
  refine ⟨s.openAt c a, (s.openAt c a).afterReached s, ?_, State.reachedTaken_afterReached (State.openAt_tableOk hw hc a) rfl others, ?_,
    others, ?_, fun e => ?_⟩
  · have rule : runOpenCase s a = ((s.openAt c a).afterReached s,
        .reply (if instant = a.reportTime then .ok else .okClamped) (.opened c ((s.caseAt c).inst + 1))) := by
      unfold runOpenCase
      rw [accepted, lowest]
      dsimp only
      rw [record]
      unfold openedRecord
      dsimp only
      rw [clamped]
      by_cases same : instant = a.reportTime
      · simp [same, CaseRecord.freeWith]
      · simp [same, CaseRecord.freeWith]
    rw [exec_openCase, takes.answers reads rule]
  · unfold State.openAt
    dsimp only
    rw [block]
    rfl
  · rw [record]
    unfold openedRecord
    dsimp only
    rw [clamped]
    rfl
  · show e ∈ indexInsert (indexInsert s.index ⟨a.oldCard, c, .old⟩) ⟨a.newCard, c, .new⟩ ↔ _
    rw [mem_indexInsert, mem_indexInsert]
    tauto

end Sys2Proof.Machine
end

section
/-! PROOFS. Season ticket carry-over (O37): the source of a slot, when a source gives a grant, and the grant it gives. -/

namespace Sys2Proof.Machine

/-! ### The source of a slot (R102) -/

theorem sourceOf_eq_some {l : List Arrival} {a : Arrival} {slot : PassSlot} (hl : l.Pairwise (fun a b => a.csn ≠ b.csn))
    (ha : a ∈ l) (hpre : a.cls = .pre) (hslot : a.slot = some slot) (hpass : a.passAfter.isSome = true)
    (hmax : ∀ b ∈ l, b.cls = .pre → b.slot = some slot → b.passAfter.isSome = true → b.csn ≤ a.csn) :
    sourceOf l slot = some a := by
  have carries {b : Arrival} : (b.isPre && b.carries slot) = true ↔
      b.cls = .pre ∧ b.slot = some slot ∧ b.passAfter.isSome = true := by
    rw [Bool.and_eq_true, Arrival.isPre_iff, Arrival.carries_iff]
  refine highest_eq_some (hl.filter _) (List.mem_filter.mpr ⟨ha, carries.mpr ⟨hpre, hslot, hpass⟩⟩) fun b hb => ?_
  obtain ⟨hb, hcarries⟩ := List.mem_filter.mp hb
  obtain ⟨bpre, bslot, bpass⟩ := carries.mp hcarries
  exact hmax b hb bpre bslot bpass

theorem sourceOf_eq_none {l : List Arrival} {slot : PassSlot}
    (h : ∀ a ∈ l, a.cls = .pre → a.slot = some slot → a.passAfter = none) : sourceOf l slot = none := by
  refine highest_eq_none_iff.mpr (List.filter_eq_nil_iff.mpr fun a ha hcarries => ?_)
  rw [Bool.and_eq_true, Arrival.isPre_iff, Arrival.carries_iff] at hcarries
  obtain ⟨hpre, hslot, hpass⟩ := hcarries
  simp [h a ha hpre hslot] at hpass

section

variable {e : Evidence} {slot : PassSlot}

theorem Evidence.source_of_arrival {a : Arrival} (h : sourceOf e.arrivals slot = some a) :
    e.source slot = (a.passAfter, a.csn) := by
  simp [Evidence.source, h]

theorem Evidence.source_of_baseline (h : sourceOf e.arrivals slot = none) :
    e.source slot = (e.baselinePass slot, e.baselineCsn) := by
  simp [Evidence.source, h]

/-! ### A source that gives a grant (R100, R102) -/

theorem PassState.grantable_iff {p : PassState} :
    p.grantable = true ↔ 1 ≤ p.product ∧ p.firstDay ≤ p.lastDay ∧ (p.cls = .count → p.rides ≤ 1000) := by
  cases hcls : p.cls <;> simp [PassState.grantable, hcls, Nat.one_le_iff_ne_zero, Nat.pos_iff_ne_zero, and_assoc]

theorem PassState.not_grantable_iff {p : PassState} : p.grantable = false ↔
    p.product = 0 ∨ p.lastDay < p.firstDay ∨ (p.cls = .count ∧ 1000 < p.rides) := by
  rw [← Bool.not_eq_true, PassState.grantable_iff, not_and_or, not_and_or, Classical.not_imp, not_le, not_le, not_le,
    Nat.lt_one_iff]

/-! ### The grant of a slot by its source -/

section

variable {m : MoneyTerms} {p : PassState} {csn : Nat}

theorem Evidence.slotGrant_of_none (h : e.source slot = (none, csn)) : e.slotGrant m slot = (none, false) := by
  simp [Evidence.slotGrant, h]

theorem Evidence.slotGrant_of_not_grantable (h : e.source slot = (some p, csn)) (hp : p.grantable = false) :
    e.slotGrant m slot = (none, false) := by
  simp [Evidence.slotGrant, h, hp]

theorem Evidence.slotGrant_of_period (h : e.source slot = (some p, csn)) (hp : p.grantable = true)
    (hcls : p.cls = .period) : e.slotGrant m slot = periodGrant slot p e.blockDay m.minCarryDays := by
  simp [Evidence.slotGrant, h, hp, hcls]

theorem Evidence.slotGrant_of_count (h : e.source slot = (some p, csn)) (hp : p.grantable = true)
    (hcls : p.cls = .count) :
    e.slotGrant m slot = (countGrant slot p e.blockDay (e.rideReduction m.gapPolicy csn), false) := by
  simp [Evidence.slotGrant, h, hp, hcls]

end

/-- The upper bound of the CSNs that reduce a COUNT pass: that of the missing set (R83, R109). -/
theorem Evidence.upperCsn_eq_elim : e.upperCsn = (firstAfter e.arrivals).elim e.anchorCsn Arrival.csn := by
  cases h : firstAfter e.arrivals with
  | none => exact Evidence.upperCsn_of_none h
  | some p => exact Evidence.upperCsn_of_some h

/-- The reduction counts the unseen CSNs between the source and p or the anchor (R109). -/
theorem Evidence.rideReduction_operator {csn : Nat} : e.rideReduction .operator csn =
    ((Finset.Ioo csn ((firstAfter e.arrivals).elim e.anchorCsn Arrival.csn)).filter
      (fun n => seen e.coverage e.baselineCsn n = false)).card := by
  rw [Evidence.rideReduction, unseenCount_eq_card, Evidence.upperCsn_eq_elim]

end

/-! ### The grant of a PERIOD and of a COUNT source (R105 to R109) -/

section

variable {slot : PassSlot} {p : PassState} {day : Int}

theorem periodGrant_not_started {minCarry : Nat} (h : day < p.firstDay) :
    periodGrant slot p day minCarry = (some ⟨slot, p.product, .dated p.firstDay p.lastDay⟩, false) :=
  if_pos h

theorem periodGrant_too_few {minCarry : Nat} (h : p.firstDay ≤ day)
    (hfew : p.lastDay - day ≤ 0 ∨ p.lastDay - day < minCarry) : periodGrant slot p day minCarry = (none, false) := by
  rw [periodGrant, if_neg (not_lt.mpr h)]
  exact if_pos hfew

theorem periodGrant_remaining {minCarry : Nat} (h : p.firstDay ≤ day) (hpos : 0 < p.lastDay - day)
    (hcarry : (minCarry : Int) ≤ p.lastDay - day) :
    periodGrant slot p day minCarry = (some ⟨slot, p.product, .duration (min (p.lastDay - day).toNat 366)⟩,
      decide (366 < p.lastDay - day)) := by
  rw [periodGrant, if_neg (not_lt.mpr h)]
  exact if_neg (not_or.mpr ⟨not_le.mpr hpos, not_lt.mpr hcarry⟩)

theorem countGrant_past {reduction : Nat} (h : (p.lastDay : Int) < day) : countGrant slot p day reduction = none :=
  if_pos h

theorem countGrant_used_up {reduction : Nat} (h : day ≤ p.lastDay) (hr : p.rides ≤ reduction) :
    countGrant slot p day reduction = none := by
  rw [countGrant, if_neg (not_lt.mpr h), if_pos hr]

theorem countGrant_rides {reduction : Nat} (h : day ≤ p.lastDay) (hr : reduction < p.rides) :
    countGrant slot p day reduction = some ⟨slot, p.product, .rides (p.rides - reduction) p.lastDay⟩ := by
  rw [countGrant, if_neg (not_lt.mpr h), if_neg (not_le.mpr hr)]

end

/-- Settles O37: the source the statement describes is the one the model's search finds; by its class each clause is then one
branch of the PERIOD or of the COUNT grant. -/
theorem slotGrantIsBuilt : Obligations.SlotGrantIsBuilt := by
  refine ⟨?source, ?noSource⟩
  case noSource =>
    intro e m slot hno hbaseline
    exact Evidence.slotGrant_of_none (hbaseline ▸ Evidence.source_of_baseline (sourceOf_eq_none hno))
  case source =>
    intro e m slot pass csn day hasc _ hsource hday
    have source : e.source slot = (some pass, csn) := by
      rcases hsource with ⟨a, ha, hpre, hslot, hpass, rfl, hmax⟩ | ⟨hno, hbaseline, rfl⟩
      · rw [← hpass]
        exact Evidence.source_of_arrival
          (sourceOf_eq_some (hasc.imp Nat.ne_of_lt) ha hpre hslot (hpass ▸ rfl) hmax)
      · rw [← hbaseline]
        exact Evidence.source_of_baseline (sourceOf_eq_none hno)
    obtain rfl : day = e.blockDay := hday
    refine ⟨fun h => Evidence.slotGrant_of_not_grantable source (PassState.not_grantable_iff.mpr h), ?_⟩
    intro hproduct hdays hrides
    have grantable := PassState.grantable_iff.mpr ⟨hproduct, hdays, hrides⟩
    refine ⟨fun hcls hstart => ?dated, fun hcls hstart => ⟨fun hfew => ?few, fun hpos hcarry => ?duration⟩,
      fun hcls hpast => ?past, fun hcls hlast reduction hreduction => ?count⟩
    case dated =>
      rw [Evidence.slotGrant_of_period source grantable hcls, periodGrant_not_started hstart]
    case few =>
      rw [Evidence.slotGrant_of_period source grantable hcls, periodGrant_too_few hstart hfew]
    case duration =>
      rw [Evidence.slotGrant_of_period source grantable hcls, periodGrant_remaining hstart hpos hcarry]
    case past =>
      rw [Evidence.slotGrant_of_count source grantable hcls, countGrant_past hpast]
    case count =>
      obtain rfl : reduction = e.rideReduction m.gapPolicy csn := by
        rw [hreduction]
        cases m.gapPolicy with
        | holder => rfl
        | operator => exact Evidence.rideReduction_operator.symm
      rw [Evidence.slotGrant_of_count source grantable hcls]
      refine ⟨fun hr => ?_, fun hr => ?_⟩
      · rw [countGrant_used_up hlast hr]
      · rw [countGrant_rides hlast hr]

end Sys2Proof.Machine
end

section
/-! PROOFS. The formats (O51): reading a field of bytes written field by field, the parcels and arguments that read back, and the
bytes of what leaves the part. -/

namespace Sys2Proof.Machine

/-! ### Fields of bytes written one after another -/

/-- The number a field was written from, as far as the field holds it. -/
theorem beNat_beBytes_mod (w n : Nat) : beNat (beBytes w n) = n % 256 ^ w := by
  rw [beNat, foldl_beBytes]
  simp

@[simp] theorem beNat_singleton (b : Byte) : beNat [b] = b.toNat := by simp [beNat]

@[simp] theorem beNat_replicate_zero (n : Nat) : beNat (List.replicate n 0) = 0 := by
  induction n with
  | zero => rfl
  | succ n ih => simpa [beNat, List.replicate_succ] using ih

theorem fieldNat_front {as : List Byte} {w : Nat} (h : as.length = w) (bs : List Byte) :
    fieldNat (as ++ bs) 0 w = beNat as := by
  rw [fieldNat, fieldBytes, List.drop_zero, ← h, List.take_left]

theorem fieldNat_whole {as : List Byte} {w : Nat} (h : as.length = w) : fieldNat as 0 w = beNat as := by
  simpa using fieldNat_front h []

@[simp] theorem fieldNat_beBytes (w n : Nat) : fieldNat (beBytes w n) 0 w = n % 256 ^ w := by
  rw [fieldNat_whole (length_beBytes w n), beNat_beBytes_mod]

@[simp] theorem fieldNat_beBytes_append (w n : Nat) (bs : List Byte) :
    fieldNat (beBytes w n ++ bs) 0 w = n % 256 ^ w := by
  rw [fieldNat_front (length_beBytes w n), beNat_beBytes_mod]

@[simp] theorem fieldNat_intBytes (i : Int) : fieldNat (intBytes i) 0 4 = (BitVec.ofInt 32 i).toNat := by
  rw [intBytes, fieldNat_beBytes]
  omega

@[simp] theorem fieldNat_intBytes_append (i : Int) (bs : List Byte) :
    fieldNat (intBytes i ++ bs) 0 4 = (BitVec.ofInt 32 i).toNat := by
  rw [fieldNat_front (length_intBytes i), ← fieldNat_whole (length_intBytes i), fieldNat_intBytes]

@[simp] theorem fieldNat_cardBytes_append (c : CardId) (bs : List Byte) : fieldNat (cardBytes c ++ bs) 0 7 = c.toNat := by
  rw [cardBytes, fieldNat_beBytes_append]
  omega

@[simp] theorem fieldNat_cons_one (b : Byte) (bs : List Byte) : fieldNat (b :: bs) 0 1 = b.toNat :=
  (fieldNat_front (as := [b]) rfl bs).trans (beNat_singleton b)

theorem fieldNat_cons {b : Byte} {bs : List Byte} {at' w : Nat} (h : 1 ≤ at') :
    fieldNat (b :: bs) at' w = fieldNat bs (at' - 1) w :=
  fieldNat_append_right [b] bs h

theorem fieldNat_replicate_zero {n w : Nat} (h : n = w) : fieldNat (List.replicate n 0) 0 w = 0 := by
  rw [fieldNat_whole (by simpa using h), beNat_replicate_zero]

/-- A byte is its field of width 1; outside the bytes both read 0. -/
theorem toNat_getD (bs : List Byte) (i : Nat) : (bs.getD i 0).toNat = fieldNat bs i 1 := by
  rw [fieldNat, fieldBytes, List.getD_eq_getElem?_getD, List.take_one, List.head?_drop]
  cases bs[i]? <;> simp [beNat]

/-- A signed number read back from its two's complement (11, opening). -/
theorem signed32_ofInt {i : Int} (h1 : -2147483648 ≤ i) (h2 : i ≤ 2147483647) :
    signed32 (BitVec.ofInt 32 i).toNat = i := by
  rw [BitVec.toNat_ofInt, signed32]
  split <;> omega

/-- A field of one of several members of equal length (Table 11-4). -/
theorem fieldNat_flatMap {α : Type} {f : α → List Byte} {n : Nat} (hf : ∀ a, (f a).length = n) {l : List α} {i : Nat} {a : α}
    (h : l[i]? = some a) {j w : Nat} (hj : j + w ≤ n) : fieldNat (l.flatMap f) (n * i + j) w = fieldNat (f a) j w := by
  induction l generalizing i with
  | nil => simp at h
  | cons b l ih =>
    rw [List.flatMap_cons]
    cases i with
    | zero =>
      obtain rfl : b = a := by simpa using h
      rw [fieldNat_append_left _ _ (by rw [hf]; omega), Nat.mul_zero, Nat.zero_add]
    | succ i =>
      have behind : n * (i + 1) + j = n + (n * i + j) := by ring
      rw [behind, fieldNat_append_right _ _ (by rw [hf]; omega), hf, Nat.add_sub_cancel_left]
      exact ih (by simpa using h)

theorem length_flatMap_const {α : Type} {f : α → List Byte} {n : Nat} (hf : ∀ a, (f a).length = n) (l : List α) :
    (l.flatMap f).length = n * l.length := by
  simp [List.length_flatMap, hf, Nat.mul_comm]

/-! ### Refs (R116) -/

theorem refOf_value {r : Ref} (hc : r.caseNo < 2048) (hg : r.generation < 8192) :
    refOf r.value = r ∧ r.value < 4294967296 := by
  obtain ⟨c, inst, g⟩ := r
  simp only [refOf, Ref.value, Ref.mk.injEq] at *
  refine ⟨⟨by omega, BitVec.eq_of_toNat_eq ?_, by omega⟩, by omega⟩
  rw [BitVec.toNat_ofNat]
  omega

/-! ### Parcels (R187, R188) -/

theorem parcelKind?_code (k : ParcelKind) : parcelKind? k.code = some k := by
  cases k <;> rfl

@[simp] theorem Header.length_bytes (h : Header) : h.bytes.length = 8 := by
  simp [Header.bytes]

/-- The source of a header (Table 11-1). -/
theorem Header.fieldNat_source (h : Header) : fieldNat h.bytes 2 3 = h.source.toNat := by
  simp only [Header.bytes, List.append_assoc, List.cons_append, List.nil_append, fieldNat_cons, Nat.le_refl, Nat.one_le_ofNat,
    Nat.reduceSub, fieldNat_beBytes_append]
  omega

/-- The sequence of a header (Table 11-1). -/
theorem Header.fieldNat_seq (h : Header) : fieldNat h.bytes 5 2 = h.seq.toNat := by
  simp [Header.bytes, fieldNat_cons, fieldNat_append_right]
  omega

section

variable {h : Header} {entries : List (List Byte)}

theorem length_parcelOf : (parcelOf h entries).length = 8 + entries.flatten.length := by
  simp [parcelOf]

theorem fieldNat_header {at' w : Nat} (hin : at' + w ≤ 8) : fieldNat (parcelOf h entries) at' w = fieldNat h.bytes at' w :=
  fieldNat_append_left _ _ (by simpa using hin)

theorem frameOf_payload (port : Port) (parcel : List Byte) : (frameOf port parcel).payload =
    beBytes 2 parcel.length ++ (parcel ++ List.replicate (46 - (2 + parcel.length)) 0) := by
  simp [frameOf, padTo, Config.minPayload, List.append_assoc]

theorem fieldNat_payload {port : Port} {parcel : List Byte} (hlen : parcel.length < 65536) :
    fieldNat (frameOf port parcel).payload 0 2 = parcel.length := by
  rw [frameOf_payload, fieldNat_beBytes_append]
  exact Nat.mod_eq_of_lt hlen

/-- The parcel length delimits the parcel from the padding (R187). -/
theorem parcelBytes_frameOf {port : Port} {parcel : List Byte} (hlen : parcel.length < 65536) :
    parcelBytes (frameOf port parcel).payload = parcel := by
  rw [parcelBytes, fieldNat_payload hlen, frameOf_payload, List.drop_left' (length_beBytes 2 _), List.take_left]

/-- A framed parcel passes the header checks and gives its header and entries back (R34, R188). -/
theorem checkParcel_frameOf {port : Port} (hone : 1 ≤ entries.length) (hmax : entries.length ≤ h.kind.maxCount)
    (hcount : h.count.toNat = entries.length) (hlen : (parcelOf h entries).length < 65536)
    (heach : ∀ e ∈ entries, if h.kind = .upload then e.length = 48 else 4 ≤ e.length ∧ fieldNat e 0 2 = e.length) :
    checkParcel (frameOf port (parcelOf h entries)).payload = .ok ⟨h, entries⟩ := by
  have len := fieldNat_payload (port := port) hlen
  have parcel := parcelBytes_frameOf (port := port) hlen
  have fits : lengthFits (frameOf port (parcelOf h entries)).payload := by
    rw [lengthFits, len, frameOf_payload]
    simp only [List.length_append, length_beBytes, length_parcelOf]
    omega
  have header {i : Nat} (hi : i < 8) : (frameOf port (parcelOf h entries)).payload.getD (2 + i) 0 = h.bytes.getD i 0 := by
    rw [← fits.getD hi, parcel, parcelOf, List.getD_append _ _ _ _ (by simpa using hi)]
  have kind : parcelKind? ((frameOf port (parcelOf h entries)).payload.getD 2 0) = some h.kind := by
    rw [header (i := 0) (by omega)]
    exact parcelKind?_code h.kind
  have version : (frameOf port (parcelOf h entries)).payload.getD 3 0 = 1 := header (i := 1) (by omega)
  have count : (frameOf port (parcelOf h entries)).payload.getD 9 0 = h.count := header (i := 7) (by omega)
  have body : (parcelOf h entries).drop 8 = entries.flatten := List.drop_left' h.length_bytes
  have found := entries_eq_some.mpr ⟨rfl, rfl, heach⟩
  rw [← body, ← parcel, ← hcount, ← count] at found
  obtain ⟨-, passes⟩ := checkParcel_entries fits kind version (by rw [count]; omega) rfl
  rw [passes entries found, parcel, count, fieldNat_header (by omega), fieldNat_header (by omega)]
  rw [Header.fieldNat_source, Header.fieldNat_seq, BitVec.ofNat_toNat, BitVec.ofNat_toNat, BitVec.setWidth_eq,
    BitVec.setWidth_eq]

end

/-! ### The arguments of OPEN_CASE (Table 11-5) -/

theorem yesNo?_flagByte (b : Bool) : yesNo? (flagByte b).toNat = some b := by
  cases b <;> rfl

@[simp] theorem length_passStateBytes (p : PassState) : p.bytes.length = 9 := by
  simp [PassState.bytes]

@[simp] theorem length_passRecordBytes (p : PassRecord) : p.bytes.length = 10 := by
  simp [PassRecord.bytes]

/-- The widths the fields of a pass record have (R191). -/
def PassRecord.fits (p : PassRecord) : Prop :=
  p.pass.product < 65536 ∧ p.pass.firstDay < 65536 ∧ p.pass.lastDay < 65536 ∧ p.pass.rides < 65536

theorem readPassRecord_bytes {p : PassRecord} (hp : p.fits) : readPassRecord p.bytes = some p := by
  obtain ⟨slot, product, cls, first, last, rides⟩ := p
  obtain ⟨hproduct, hfirst, hlast, hrides⟩ := hp
  dsimp only at hproduct hfirst hlast hrides
  have hslot : slot.val % 256 = slot.val := by omega
  cases cls <;>
    simp [readPassRecord, PassRecord.bytes, PassState.bytes, fieldNat_cons, fieldNat_append_right,
      Nat.mod_eq_of_lt, hproduct, hfirst, hlast, hrides, hslot, PassClass.code, yesNo?]

theorem readPassRecords_flatMap {l : List PassRecord} (h : ∀ p ∈ l, p.fits) :
    readPassRecords l.length (l.flatMap PassRecord.bytes) = some l := by
  induction l with
  | nil => rfl
  | cons p l ih =>
    obtain ⟨hp, hl⟩ := List.forall_mem_cons.mp h
    rw [List.length_cons, List.flatMap_cons, readPassRecords, List.take_left' (length_passRecordBytes p),
      List.drop_left' (length_passRecordBytes p), readPassRecord_bytes hp, ih hl]

/-- The argument bytes of an OPEN_CASE, in the order of Table 11-5, in front of its list of passes. -/
def OpenArgs.head (a : OpenArgs) : List Byte :=
  cardBytes a.oldCard ++ cardBytes a.newCard ++ beBytes 1 a.operator.val ++ beBytes 4 a.hostTag.toNat
    ++ [flagByte a.feeWaived] ++ beBytes 4 a.reportTime ++ beBytes 4 a.baselineCsn ++ intBytes a.baselineBalance

@[simp] theorem OpenArgs.length_head (a : OpenArgs) : a.head.length = 32 := by
  simp [OpenArgs.head]

/-- The fields in front of the passes (Table 11-5). -/
theorem OpenArgs.head_fields {a : OpenArgs} (htime : a.reportTime < 4294967296) (hcsn : a.baselineCsn < 4294967296) :
    fieldNat a.head 0 7 = a.oldCard.toNat ∧ fieldNat a.head 7 7 = a.newCard.toNat ∧ fieldNat a.head 14 1 = a.operator.val ∧
      fieldNat a.head 15 4 = a.hostTag.toNat ∧ fieldNat a.head 19 1 = (flagByte a.feeWaived).toNat ∧
      fieldNat a.head 20 4 = a.reportTime ∧ fieldNat a.head 24 4 = a.baselineCsn ∧
      fieldNat a.head 28 4 = (BitVec.ofInt 32 a.baselineBalance).toNat := by
  simp [OpenArgs.head, List.append_assoc, fieldNat_append_right, fieldNat_cons]
  omega

theorem readOpenCase_head {a : OpenArgs} (htime : a.reportTime < 4294967296) (hcsn : a.baselineCsn < 4294967296)
    (hlo : -2147483648 ≤ a.baselineBalance) (hhi : a.baselineBalance ≤ 2147483647) (hcount : a.passes.length < 256)
    (hpasses : ∀ p ∈ a.passes, p.fits) :
    readOpenCase (a.head ++ listBytes PassRecord.bytes a.passes) = some a := by
  have passes : (a.head ++ listBytes PassRecord.bytes a.passes).drop 33 = a.passes.flatMap PassRecord.bytes := by
    rw [show a.head ++ listBytes PassRecord.bytes a.passes =
      (a.head ++ [BitVec.ofNat 8 a.passes.length]) ++ a.passes.flatMap PassRecord.bytes by simp [listBytes]]
    exact List.drop_left' (by simp)
  have front {at' w : Nat} (h : at' + w ≤ 32) :
      fieldNat (a.head ++ listBytes PassRecord.bytes a.passes) at' w = fieldNat a.head at' w :=
    fieldNat_append_left _ _ (by simpa using h)
  have count : fieldNat (a.head ++ listBytes PassRecord.bytes a.passes) 32 1 = a.passes.length := by
    rw [fieldNat_append_right _ _ (by simp), OpenArgs.length_head, listBytes, fieldNat_cons_one, BitVec.toNat_ofNat]
    exact Nat.mod_eq_of_lt hcount
  obtain ⟨oldCard, newCard, operator, hostTag, waived, time, csn, balance⟩ := OpenArgs.head_fields htime hcsn
  have length : (a.head ++ listBytes PassRecord.bytes a.passes).length = 33 + 10 * a.passes.length := by
    rw [List.length_append, OpenArgs.length_head, listBytes, List.length_cons, length_flatMap_const length_passRecordBytes]
    omega
  simp only [readOpenCase, toNat_getD, length, passes, count, readPassRecords_flatMap hpasses, fieldInt, front,
    Nat.reduceAdd, Nat.reduceLeDiff, oldCard, newCard, operator, hostTag, waived, time, csn, balance, yesNo?_flagByte,
    signed32_ofInt hlo hhi, if_pos, a.operator.isLt, dif_pos, BitVec.ofNat_toNat, BitVec.setWidth_eq]

/-! ### A PUT of an operator row -/

/-- The bytes of an operator row in a PUT, behind its table (Table 11-5). -/
def PolicyValues.bytes (v : PolicyValues) : List Byte :=
  beBytes 1 v.valid ++ beBytes 2 v.fee ++ intBytes v.purseMax ++ beBytes 1 v.gapPolicy ++ beBytes 2 v.windowHours
    ++ beBytes 1 v.collectionDays ++ beBytes 1 v.tailDays ++ beBytes 4 v.dayOffset ++ beBytes 1 v.minCarryDays
    ++ beBytes 1 v.maxBackdateDays ++ beBytes 1 v.earlySettle

/-- The values fit the widths of their fields (R191). -/
structure PolicyValues.Fits (v : PolicyValues) : Prop where
  valid : v.valid < 256
  fee : v.fee < 65536
  purseMaxLow : -2147483648 ≤ v.purseMax
  purseMaxHigh : v.purseMax ≤ 2147483647
  gapPolicy : v.gapPolicy < 256
  windowHours : v.windowHours < 65536
  collectionDays : v.collectionDays < 256
  tailDays : v.tailDays < 256
  dayOffset : v.dayOffset < 4294967296
  minCarryDays : v.minCarryDays < 256
  maxBackdateDays : v.maxBackdateDays < 256
  earlySettle : v.earlySettle < 256

theorem policyValuesOf_bytes {v : PolicyValues} (h : v.Fits) : policyValuesOf v.bytes = v := by
  simp only [policyValuesOf, toNat_getD, fieldInt]
  simp [PolicyValues.bytes, List.append_assoc, fieldNat_append_right, Nat.mod_eq_of_lt, h.valid, h.fee, h.gapPolicy,
    h.windowHours, h.collectionDays, h.tailDays, h.dayOffset, h.minCarryDays, h.maxBackdateDays, h.earlySettle,
    -BitVec.toNat_ofInt, signed32_ofInt h.purseMaxLow h.purseMaxHigh]

theorem readPut_policyStandby {v : PolicyValues} (h : v.Fits) : readPut (0 :: v.bytes) = some (.policyStandby v) := by
  have length : v.bytes.length = 19 := by simp [PolicyValues.bytes]
  have run : readPut (0 :: v.bytes) =
      if v.bytes.length = 19 then some (.policyStandby (policyValuesOf v.bytes)) else none := rfl
  rw [run, if_pos length, policyValuesOf_bytes h]

/-! ### Action entries (Table 11-4) -/

/-- What every action entry opens with, and what follows its ref. -/
def actionLayout (kind grants : Byte) (card : CardId) (ref : Ref) (rest : List Byte) : List Byte :=
  withLength ([kind, grants] ++ cardBytes card ++ refBytes ref ++ rest)

section

variable {kind grants : Byte} {card : CardId} {ref : Ref} {rest : List Byte}

theorem length_actionLayout : (actionLayout kind grants card ref rest).length = 15 + rest.length := by
  simp [actionLayout]
  omega

/-- The fields an action entry opens with. -/
theorem actionLayout_opens (hlen : 15 + rest.length < 65536) (href : ref.value < 4294967296) {b : List Byte}
    (hb : b = actionLayout kind grants card ref rest) :
    b.length = 15 + rest.length ∧ fieldNat b 0 2 = 15 + rest.length ∧ fieldNat b 2 1 = kind.toNat ∧
      fieldNat b 3 1 = grants.toNat ∧ fieldNat b 4 7 = card.toNat ∧ fieldNat b 11 4 = ref.value := by
  subst hb
  refine ⟨length_actionLayout, ?_⟩
  simp [actionLayout, withLength, refBytes, List.append_assoc, fieldNat_append_right, fieldNat_cons]
  omega

/-- The fields behind the ref. -/
theorem fieldNat_actionLayout {i w : Nat} :
    fieldNat (actionLayout kind grants card ref rest) (15 + i) w = fieldNat rest i w := by
  have front : actionLayout kind grants card ref rest =
      (beBytes 2 (([kind, grants] ++ cardBytes card ++ refBytes ref ++ rest).length + 2)
        ++ ([kind, grants] ++ cardBytes card ++ refBytes ref)) ++ rest := by
    simp [actionLayout, withLength]
  rw [front, fieldNat_append_right _ _ (by simp)]
  congr 1
  simp

end

theorem ActionEntry.bytes_block (ref : Ref) (card : CardId) (op : Operator) (instant : Nat) :
    (ActionEntry.block ref card op instant).bytes =
      actionLayout 1 0 card ref ([BitVec.ofNat 8 op.val] ++ beBytes 4 instant) := by
  simp [ActionEntry.bytes, ActionEntry.body, actionLayout]

theorem ActionEntry.bytes_unblock (ref : Ref) (card : CardId) :
    (ActionEntry.unblock ref card).bytes = actionLayout 2 0 card ref [] := by
  simp [ActionEntry.bytes, ActionEntry.body, actionLayout]

theorem ActionEntry.bytes_withdraw (ref : Ref) (card : CardId) :
    (ActionEntry.withdraw ref card).bytes = actionLayout 4 0 card ref [] := by
  simp [ActionEntry.bytes, ActionEntry.body, actionLayout]

theorem ActionEntry.bytes_restore (ref : Ref) (card : CardId) (credit : Int) (grants : List Grant) :
    (ActionEntry.restore ref card credit grants).bytes =
      actionLayout 3 (BitVec.ofNat 8 grants.length) card ref (intBytes credit ++ grants.flatMap Grant.bytes) := by
  simp [ActionEntry.bytes, ActionEntry.body, actionLayout]

/-- Form, class and the two values of a grant's form (Table 11-4). -/
def GrantForm.layout : GrantForm → Nat × Nat × Nat × Nat
  | .dated first last => (1, 0, first, last)
  | .duration days => (2, 0, days, 0)
  | .rides number last => (3, 1, number, last)

/-- The fields of a grant (Table 11-4). -/
theorem Grant.bytes_fields {g : Grant} {form cls valueA valueB : Nat} (hform : g.form.layout = (form, cls, valueA, valueB))
    (hproduct : g.product < 65536) (hA : valueA < 65536) (hB : valueB < 65536) :
    fieldNat g.bytes 0 1 = g.slot.val ∧ fieldNat g.bytes 1 1 = form ∧ fieldNat g.bytes 2 2 = g.product ∧
      fieldNat g.bytes 4 1 = cls ∧ fieldNat g.bytes 5 1 = 0 ∧ fieldNat g.bytes 6 2 = valueA ∧
      fieldNat g.bytes 8 2 = valueB := by
  obtain ⟨slot, product, gform⟩ := g
  cases gform <;> cases hform <;>
    simp [Grant.bytes, fieldNat_cons, fieldNat_append_right, Nat.mod_eq_of_lt, hproduct, hA, hB] <;> omega

/-- The fields of a RESTORE in front of its grants (Table 11-4). -/
theorem ActionEntry.restore_fields {ref : Ref} {card : CardId} {credit : Int} {grants : List Grant} {b : List Byte}
    (href : ref.value < 4294967296) (hlo : -2147483648 ≤ credit) (hhi : credit ≤ 2147483647) (hfour : grants.length ≤ 4)
    (hb : b = (ActionEntry.restore ref card credit grants).bytes) :
    (b.length = 19 + 10 * grants.length ∧ fieldNat b 0 2 = 19 + 10 * grants.length ∧ fieldNat b 2 1 = 3 ∧
      fieldNat b 3 1 = grants.length ∧ fieldNat b 4 7 = card.toNat ∧ fieldNat b 11 4 = ref.value) ∧
    fieldInt b 15 = credit := by
  have layout := hb.trans (ActionEntry.bytes_restore ref card credit grants)
  have length : (intBytes credit ++ grants.flatMap Grant.bytes).length = 4 + 10 * grants.length := by
    rw [List.length_append, length_intBytes, length_flatMap_const length_grantBytes]
  have count : (BitVec.ofNat 8 grants.length).toNat = grants.length := by
    rw [BitVec.toNat_ofNat]
    omega
  have opened := actionLayout_opens (by omega) href layout
  rw [length, count, show 15 + (4 + 10 * grants.length) = 19 + 10 * grants.length by omega] at opened
  refine ⟨opened, ?_⟩
  rw [fieldInt, layout, fieldNat_actionLayout (i := 0), fieldNat_intBytes_append, signed32_ofInt hlo hhi]

/-- A field of a grant within its RESTORE (Table 11-4). -/
theorem ActionEntry.fieldNat_grant {ref : Ref} {card : CardId} {credit : Int} {grants : List Grant} {i : Nat} {g : Grant}
    (hg : grants[i]? = some g) {j w : Nat} (hj : j + w ≤ 10) :
    fieldNat (ActionEntry.restore ref card credit grants).bytes (19 + 10 * i + j) w = fieldNat g.bytes j w := by
  rw [ActionEntry.bytes_restore, show 19 + 10 * i + j = 15 + (4 + (10 * i + j)) by omega, fieldNat_actionLayout,
    fieldNat_append_right _ _ (by simp), length_intBytes, Nat.add_sub_cancel_left, fieldNat_flatMap length_grantBytes hg hj]

/-! ### Reply entries (R191) -/

section

variable {e : ReplyEntry}

theorem ReplyEntry.length_bytes : e.bytes.length = 4 + e.result.bytes.length := by
  simp [ReplyEntry.bytes]
  omega

/-- The length bytes, the code, the status, and then the result fields. -/
theorem ReplyEntry.bytes_eq : e.bytes =
    beBytes 2 (e.result.bytes.length + 4) ++ e.code :: e.status.code :: e.result.bytes := by
  simp [ReplyEntry.bytes, withLength]

theorem ReplyEntry.drop_bytes : e.bytes.drop 4 = e.result.bytes := by
  rw [ReplyEntry.bytes_eq]
  rfl

theorem ReplyEntry.fieldNat_result {i w : Nat} : fieldNat e.bytes (4 + i) w = fieldNat e.result.bytes i w := by
  rw [fieldNat, fieldBytes, ← List.drop_drop, ReplyEntry.drop_bytes]
  rfl

theorem ReplyEntry.bytes_fields (h : e.result.bytes.length ≤ 1020) :
    fieldNat e.bytes 0 2 = e.bytes.length ∧ e.bytes[2]? = some e.code ∧ fieldNat e.bytes 3 1 = e.status.code.toNat := by
  rw [ReplyEntry.length_bytes, ReplyEntry.bytes_eq]
  refine ⟨?_, rfl, ?_⟩
  · rw [fieldNat_beBytes_append]
    omega
  · simp [fieldNat_append_right, fieldNat_cons]

end

theorem Status.getElem?_code (st : Status) :
    ([.ok, .okClamped, .busy, .unknownCommand, .badArgument, .noSuchCase, .wrongState, .tableFull, .cardInCase, .sameCard,
      .blockedTarget, .noPolicy, .clockUnset, .readOnly, .patchActive, .notPatching, .initializing] : List Status)[
        st.code.toNat]? = some st := by
  cases st <;> rfl

/-! ### Notice entries (R192) -/

theorem length_padTo {width : Nat} {bs : List Byte} (h : bs.length ≤ width) : (padTo width bs).length = width := by
  simp [padTo, h]

/-- The unused bytes are 0 (R192). -/
theorem fieldNat_padding {bs : List Byte} {at' w width : Nat} (hat : bs.length = at') (hw : at' + w = width) :
    fieldNat (padTo width bs) at' w = 0 := by
  rw [padTo, fieldNat_append_right _ _ hat.le, ← hat, Nat.sub_self]
  exact fieldNat_replicate_zero (by omega)

theorem EventDetail.length_values (d : EventDetail) : d.values.length ≤ 8 := by
  cases d <;> simp [EventDetail.values]

theorem ResultStatus.getElem?_code (st : ResultStatus) :
    ([.confirmed, .gapResolved, .unconfirmed, .forced] : List ResultStatus)[st.code.toNat - 1]? = some st := by
  cases st <;> rfl

theorem HoldReasons.bits_lt (r : HoldReasons) : r.bits < 256 := by
  simp only [HoldReasons.bits, bitsNat]
  split_ifs <;> omega

section

variable {e : CaseEvent}

/-- A case event in front of its detail. -/
def CaseEvent.head (e : CaseEvent) : List Byte :=
  beBytes 2 23 ++ [2, e.detail.code] ++ beBytes 2 e.caseNo ++ beBytes 1 e.inst.toNat ++ beBytes 4 e.hostTag.toNat
    ++ beBytes 4 e.time

@[simp] theorem CaseEvent.length_head : e.head.length = 15 := by
  simp [CaseEvent.head]

theorem CaseEvent.bytes_eq : e.bytes = e.head ++ padTo 8 e.detail.values := by
  simp [CaseEvent.bytes, CaseEvent.head, withLength, length_padTo e.detail.length_values]

theorem CaseEvent.length_bytes : e.bytes.length = 23 := by
  rw [CaseEvent.bytes_eq, List.length_append, CaseEvent.length_head, length_padTo e.detail.length_values]

theorem CaseEvent.fieldNat_head {at' w : Nat} (h : at' + w ≤ 15) : fieldNat e.bytes at' w = fieldNat e.head at' w := by
  rw [CaseEvent.bytes_eq, fieldNat_append_left _ _ (by simpa using h)]

theorem CaseEvent.fieldNat_detail {i w : Nat} :
    fieldNat e.bytes (15 + i) w = fieldNat (padTo 8 e.detail.values) i w := by
  rw [CaseEvent.bytes_eq, fieldNat_append_right _ _ (by simp), CaseEvent.length_head, Nat.add_sub_cancel_left]

/-- The fields in front of the detail. -/
theorem CaseEvent.head_fields (hc : e.caseNo < 65536) (ht : e.time < 4294967296) :
    fieldNat e.bytes 0 2 = 23 ∧ fieldNat e.bytes 2 1 = 2 ∧ fieldNat e.bytes 3 1 = e.detail.code.toNat ∧
      fieldNat e.bytes 4 2 = e.caseNo ∧ e.bytes[6]? = some e.inst ∧ fieldNat e.bytes 7 4 = e.hostTag.toNat ∧
      fieldNat e.bytes 11 4 = e.time := by
  have inst : e.bytes[6]? = some e.inst := by
    rw [CaseEvent.bytes_eq, List.getElem?_append_left (by simp)]
    simp [CaseEvent.head, beBytes]
  simp only [inst, CaseEvent.fieldNat_head, Nat.reduceAdd, Nat.reduceLeDiff, true_and]
  simp [CaseEvent.head, List.append_assoc, fieldNat_cons, fieldNat_append_right]
  omega

/-- A detail that is one signed number, and its unused bytes. -/
theorem CaseEvent.signed_detail {v : Int} (h : e.detail.values = intBytes v) :
    (-2147483648 ≤ v → v ≤ 2147483647 → fieldInt e.bytes 15 = v) ∧ fieldNat e.bytes 19 4 = 0 := by
  rw [fieldInt, CaseEvent.fieldNat_detail (i := 0), CaseEvent.fieldNat_detail (i := 4), h]
  refine ⟨?_, fieldNat_padding (length_intBytes v) rfl⟩
  rw [padTo, fieldNat_intBytes_append]
  exact signed32_ofInt

theorem CaseEvent.settled_detail {status : ResultStatus} {target : Int} (h : e.detail = .settled status target) :
    ([.confirmed, .gapResolved, .unconfirmed, .forced] : List ResultStatus)[fieldNat e.bytes 15 1 - 1]? = some status ∧
      (-2147483648 ≤ target → target ≤ 2147483647 → fieldInt e.bytes 16 = target) ∧ fieldNat e.bytes 20 3 = 0 := by
  rw [CaseEvent.fieldNat_detail (i := 0), fieldInt, CaseEvent.fieldNat_detail (i := 1), CaseEvent.fieldNat_detail (i := 5), h]
  refine ⟨?_, ?_, fieldNat_padding (by simp [EventDetail.values]) rfl⟩
  · simpa [EventDetail.values, padTo] using status.getElem?_code
  · simpa [EventDetail.values, padTo, fieldNat_cons] using signed32_ofInt

theorem CaseEvent.held_detail {reasons : HoldReasons} (h : e.detail = .held reasons) :
    fieldNat e.bytes 15 1 = reasons.bits ∧ fieldNat e.bytes 16 7 = 0 := by
  rw [CaseEvent.fieldNat_detail (i := 0), CaseEvent.fieldNat_detail (i := 1), h]
  refine ⟨?_, fieldNat_padding (by simp [EventDetail.values]) rfl⟩
  simpa [EventDetail.values, padTo] using reasons.bits_lt

theorem CaseEvent.lapsed_detail {g : Nat} (h : e.detail = .lapsed g) :
    (g < 65536 → fieldNat e.bytes 15 2 = g) ∧ fieldNat e.bytes 17 6 = 0 := by
  rw [CaseEvent.fieldNat_detail (i := 0), CaseEvent.fieldNat_detail (i := 2), h]
  refine ⟨fun hg => ?_, fieldNat_padding (by simp [EventDetail.values]) rfl⟩
  simpa [EventDetail.values, padTo] using hg

end

/-- The fields of a log summary. -/
theorem LogSummary.bytes_fields {l : LogSummary} (h : l.valid < 256) :
    l.bytes.length = 6 ∧ fieldNat l.bytes 0 2 = 6 ∧ fieldNat l.bytes 2 1 = 1 ∧ fieldNat l.bytes 3 1 = l.valid ∧
      fieldNat l.bytes 4 1 = (flagByte l.overflow).toNat ∧
      fieldNat l.bytes 5 1 = (l.first.map Fin.val).getD 255 := by
  have first : (l.first.map Fin.val).getD 255 < 256 := by
    cases l.first with
    | none => simp
    | some i => simp; omega
  simp [LogSummary.bytes, withLength, fieldNat_cons, fieldNat_append_right]
  omega

/-! ### Frames (R187, R188) -/

/-- What the statement asks of a frame that carries a parcel. -/
theorem frameOf_framed (port : Port) (h : Header) (entries : List (List Byte)) : ∃ f parcel,
    some (frameOf port (parcelOf h entries)) = some f ∧ f.destination = 0xFFFFFFFFFFFF ∧ f.source = portAddress port ∧
      f.etherType = 0x88B5 ∧ f.payload = beBytes 2 parcel.length ++ parcel ++ List.replicate (46 - (2 + parcel.length)) 0 ∧
      parcel = [h.kind.code, 1] ++ beBytes 3 h.source.toNat ++ beBytes 2 h.seq.toNat ++ [h.count] ++ entries.flatten :=
  ⟨_, parcelOf h entries, rfl, rfl, rfl, rfl, by rw [frameOf_payload, List.append_assoc], rfl⟩

section

variable {s : State}

theorem State.deviceFrame_of_taken (h : s.actions.taken ≠ []) :
    s.deviceFrame = some (frameOf .device s.actions.parcelBytes) :=
  if_neg (by simpa using h)

theorem State.deviceFrame_of_idle (h : s.actions.taken = []) : s.deviceFrame = none :=
  if_pos (by simp [h])

theorem State.clearingFrame_of_source {source : CpSource} {parcel : List Byte} (h : s.cp.sending = some source)
    (hp : s.sourceParcel source = some parcel) : s.clearingFrame = some (frameOf .clearing parcel) := by
  simp [State.clearingFrame, h, hp]

theorem State.sourceParcel_reply {replies : List ReplyEntry} {p : ControlParcel} (h : s.control.phase = .offering replies)
    (hp : s.cp.queue.head? = some p) : s.sourceParcel .reply = some (replyParcel p replies) := by
  have head : s.headParcel = some p := hp
  simp [State.sourceParcel, h, head]

theorem State.sourceParcel_notice {summary : Option LogSummary} (h : s.notices.parcel = some summary) :
    s.sourceParcel .notice = some (s.notices.parcelBytes summary) := by
  simp [State.sourceParcel, h]

end

/-- Settles O51: each clause is the lemma about its format, with the widths the statement gives. -/
theorem formatsReadBack : Obligations.FormatsReadBack := by
  refine ⟨?parcel, ?ref, ?openCase, ?put, ?action, ?reply, ?event, ?summary, ?frames⟩
  case parcel =>
    intro port h entries hone hmax hcount hlen hupload hother
    refine checkParcel_frameOf hone hmax hcount hlen fun e he => ?_
    split
    · next hk => exact hupload hk e he
    · next hk => exact hother hk e he
  case ref => exact fun r hc hg => refOf_value hc hg
  case openCase => exact fun a htime hcsn hlo hhi hcount hpasses => readOpenCase_head htime hcsn hlo hhi hcount hpasses
  case put =>
    intro v valid fee maxLow maxHigh gap window collection tail offset carry backdate early
    exact readPut_policyStandby ⟨valid, fee, maxLow, maxHigh, gap, window, collection, tail, offset, carry, backdate, early⟩
  case action =>
    intro e b ref card hb href opens hopens
    refine ⟨?block, ?unblock, ?withdraw, ?restore⟩
    case block =>
      rintro op instant rfl hinstant
      have layout := hb.trans (ActionEntry.bytes_block ref card op instant)
      refine ⟨(hopens ..).mpr (actionLayout_opens (by simp) href layout), ?_⟩
      rw [layout, fieldNat_actionLayout (i := 0), fieldNat_actionLayout (i := 1)]
      simp [fieldNat_cons]
      omega
    case unblock =>
      rintro rfl
      exact (hopens ..).mpr (actionLayout_opens (by simp) href (hb.trans (ActionEntry.bytes_unblock ref card)))
    case withdraw =>
      rintro rfl
      exact (hopens ..).mpr (actionLayout_opens (by simp) href (hb.trans (ActionEntry.bytes_withdraw ref card)))
    case restore =>
      rintro credit grants rfl hnonneg hcredit hfour
      obtain ⟨opened, creditAt⟩ := ActionEntry.restore_fields href (by omega) (by omega) hfour hb
      refine ⟨(hopens ..).mpr opened, creditAt, ?_⟩
      rintro i g hg hproduct form cls valueA valueB hform hA hB k rfl
      have field {j w : Nat} (hj : j + w ≤ 10) : fieldNat b (19 + 10 * i + j) w = fieldNat g.bytes j w :=
        hb ▸ ActionEntry.fieldNat_grant hg hj
      have layout : g.form.layout = (form, cls, valueA, valueB) := by
        cases hg : g.form <;> rw [hg] at hform <;> obtain ⟨rfl, rfl, rfl, rfl⟩ := hform <;> rfl
      obtain ⟨slot, formAt, product, clsAt, zero, valueAAt, valueBAt⟩ := Grant.bytes_fields layout hproduct hA hB
      exact ⟨(field (j := 0) (by omega)).trans slot, (field (by omega)).trans formAt, (field (by omega)).trans product,
        (field (by omega)).trans clsAt, (field (by omega)).trans zero, (field (by omega)).trans valueAAt,
        (field (by omega)).trans valueBAt⟩
  case reply =>
    rintro e b rfl hwidth
    obtain ⟨width, code, status⟩ := ReplyEntry.bytes_fields hwidth
    refine ⟨ReplyEntry.length_bytes, width, code, ?_, ReplyEntry.drop_bytes, fun hr => ?_, fun c inst hr hc => ?_,
      fun cursor hr => ?_⟩
    · rw [status]
      exact e.status.getElem?_code
    · simp [ReplyEntry.length_bytes, hr, ReplyResult.bytes]
    · rw [ReplyEntry.length_bytes, ReplyEntry.fieldNat_result (i := 0), ReplyEntry.bytes_eq, hr]
      refine ⟨by simp [ReplyResult.bytes], ?_, by simp [ReplyResult.bytes, beBytes]⟩
      simp [ReplyResult.bytes]
      omega
    · have table := cursor.table_lt
      have row := cursor.row_lt
      rw [ReplyEntry.length_bytes, ReplyEntry.fieldNat_result (i := 0), ReplyEntry.fieldNat_result (i := 1), hr]
      refine ⟨by simp [ReplyResult.bytes, Cursor.bytes], ?_⟩
      simp [ReplyResult.bytes, Cursor.bytes, fieldNat_append_right]
      omega
  case event =>
    rintro e b rfl hc ht
    obtain ⟨width, kind, code, case, inst, tag, time⟩ := CaseEvent.head_fields hc ht
    refine ⟨CaseEvent.length_bytes, width, kind, case, inst, tag, time, ?_⟩
    cases hd : e.detail with
    | settled status target =>
      exact ⟨code.trans (congrArg (fun d => (EventDetail.code d).toNat) hd), CaseEvent.settled_detail hd⟩
    | held reasons =>
      exact ⟨code.trans (congrArg (fun d => (EventDetail.code d).toNat) hd), CaseEvent.held_detail hd⟩
    | lapsed g =>
      exact ⟨code.trans (congrArg (fun d => (EventDetail.code d).toNat) hd), CaseEvent.lapsed_detail hd⟩
    | adjusted v | collected v | closed v =>
      exact ⟨code.trans (congrArg (fun d => (EventDetail.code d).toNat) hd),
        CaseEvent.signed_detail (congrArg EventDetail.values hd)⟩
  case summary =>
    rintro l b rfl hvalid
    obtain ⟨length, width, kind, valid, overflow, first⟩ := LogSummary.bytes_fields hvalid
    refine ⟨length, width, kind, valid, overflow.trans ?_, first.trans ?_⟩
    · cases l.overflow <;> rfl
    · cases l.first <;> rfl
  case frames =>
    intro s framed hframed
    refine ⟨State.deviceFrame_of_idle, fun htaken => ?_, fun hidle => by simp [State.clearingFrame, hidle],
      fun replies p hsending hphase hhead => ?_, fun summary entries hsending hparcel hentries => ?_,
      fun parcel hsending hhead => ?_⟩
    · rw [hframed, State.deviceFrame_of_taken htaken]
      exact frameOf_framed ..
    · rw [hframed, State.clearingFrame_of_source hsending (State.sourceParcel_reply hphase hhead)]
      exact frameOf_framed ..
    · subst hentries
      rw [hframed, State.clearingFrame_of_source hsending (State.sourceParcel_notice hparcel)]
      exact frameOf_framed ..
    · have source : s.sourceParcel .forward = some (parcelOf parcel.header parcel.records) := by
        simp [State.sourceParcel, hhead]
      rw [hframed, State.clearingFrame_of_source hsending source]
      exact frameOf_framed ..

end Sys2Proof.Machine
end
